-- ==== Sys2Proof/Word.lean ====
section
/-! DEFINITION. The plain data of the block: bytes, levels, lines, line events, and the two records that pass between its
parts (00_scope.md section 5, 10_state.md sections 2 and 5, 20_memory.md sections 1 and 8, 30_encoding.md section 1). -/

namespace Sys2Proof

/-- A byte (R8): 8 bits, unsigned, bit n of weight 2^n. -/
abbrev Byte := BitVec 8

/-- One bit of a result (R89): 1 true, 0 false. -/
abbrev Bit := BitVec 1

/-- An electrical level (R8): 0 or 1. -/
inductive Level where
  | low
  | high
deriving DecidableEq, Repr, Inhabited

/-- The seven lines of the block, by role (R52). -/
inductive Line where
  | up
  | down
  | left
  | right
  | data
  | load
  | clk
deriving DecidableEq, Repr, Inhabited

/-- Direction of a line (R9, R57): In, not driven by the block; Out, driven to its latch. -/
inductive Dir where
  | input
  | output
deriving DecidableEq, Repr, Inhabited

/-- One record of the event history (R71): `Rd(L, v)`, `Wr(L, v)`, `Dir(L, d)`, `Dly(t)`, t in microseconds. -/
inductive LineEvent where
  | rd (l : Line) (v : Level)
  | wr (l : Line) (v : Level)
  | dir (l : Line) (d : Dir)
  | dly (t : Nat)
deriving DecidableEq, Repr, Inhabited

/-- A ReportBuffer (R51, R82): byte 0 the X axis, byte 1 the Y axis, byte 2 the buttons in wire order. -/
structure Report where
  xAxis : Byte
  yAxis : Byte
  buttons : Byte
deriving DecidableEq, Repr, Inhabited

/-- The eight serial bits in raw order (R81, R30): `bN` is `RAW[N]`, true when the button is pressed. -/
structure RawBits where
  b0 : Bool
  b1 : Bool
  b2 : Bool
  b3 : Bool
  b4 : Bool
  b5 : Bool
  b6 : Bool
  b7 : Bool
deriving DecidableEq, Repr, Inhabited

/-- The LogicalControllerState (R33, R96): two axis bytes and eight named buttons, with no bit layout of its own. -/
structure Ctrl where
  x : Byte
  y : Byte
  red : Bool
  blue : Bool
  green : Bool
  yellow : Bool
  start : Bool
  l : Bool
  r : Bool
  extra : Bool
deriving DecidableEq, Repr, Inhabited

end Sys2Proof
end

