-- ==== Sys2Proof/Config.lean ====
section
/-! DEFINITION. What is fixed for one machine: the numbers the source fixes (00_scope.md R6), the parameters it leaves open
(R7, 92_eei_decisions.md) and the free values. An opaque constant has no body, so no proof can see what it is. -/

namespace Sys2Proof

/-- `N_DIR` (R6): direction input lines. -/
def Config.nDir : Nat := 4

/-- `N_BITS` (R6): serial bits per READ. -/
def Config.nBits : Nat := 8

/-- `REPORT_SIZE` (R6, R34): bytes of a ReportBuffer. -/
def Config.reportSize : Nat := 3

/-- `AXIS_MIN` (R6). -/
def Config.axisMin : Byte := 0x00#8

/-- `AXIS_CENTRE` (R6). -/
def Config.axisCentre : Byte := 0x80#8

/-- `AXIS_MAX` (R6). -/
def Config.axisMax : Byte := 0xFF#8

/-- `T_LOAD_MIN` (R6), microseconds. -/
def Config.tLoadMin : Nat := 300

/-- `T_SETTLE_MIN` (R6), microseconds. -/
def Config.tSettleMin : Nat := 100

/-- `T_CLKH_MIN` (R6), microseconds. -/
def Config.tClkHMin : Nat := 300

/-- `T_CLKL_MIN` (R6), microseconds. -/
def Config.tClkLMin : Nat := 300

/-- `T_UPDATE_MIN` (R6, R129), microseconds. -/
def Config.tUpdateMin : Nat := 5200

/-- Sequence positions one READ goes through (R31): 11 before the loop, 8 times 6 in it, 2 after it. -/
def Config.readStepCount : Nat := 61

/-- `RESET_BUF` (R7, R39): the default the spec decides in D7. DESIGN CHOICE of the spec (log 3). -/
def Config.resetBuf : Report := { xAxis := 0x00#8, yAxis := 0x00#8, buttons := 0x00#8 }

/-- The pin oracle (R55, D21): a black box that sees the event history and answers one level. A free value (log 9). -/
opaque Config.pinOracle : List LineEvent → Line → Level

/-- By how many microseconds a delay exceeds its minimum (R10, D10), given the history so far. A free value (log 10). -/
opaque Config.delayExtra : List LineEvent → Nat

/-- The first byte of `DESC` (R172, D16). Uninterpreted (log 11). -/
opaque Config.descHead : Byte

/-- The other bytes of `DESC` (R172, D16). Uninterpreted (log 11). -/
opaque Config.descTail : List Byte

/-- `DESC` (R34, R172): a constant byte sequence of at least one byte, of unknown contents. -/
def Config.desc : List Byte := Config.descHead :: Config.descTail

/-- `DESC_SIZE` (R34, R173): the length of `DESC`. -/
def Config.descSize : Nat := Config.desc.length

/-- `PINMAP` (R7, D3): which physical pin carries each line. Uninterpreted; no rule depends on it (log 12). -/
opaque Config.pinMap : Line → Nat

/-- `PULLUPS` (R7, D8): whether the input lines have pull-ups. Uninterpreted; no rule depends on it (log 12). -/
opaque Config.pullUps : Bool

end Sys2Proof
end

