-- ==== Sys2Proof/Machine/State.lean ====
section
/-! DEFINITION. The state of the block and of what its rules mention beside it (10_state.md, 20_memory.md sections 1 and 8,
30_encoding.md R87 and R89), as plain data; its value after reset (R39); the reasons a step can stop (there are none). -/

namespace Sys2Proof.Machine

/-- The sequence position (R31): `Idle`, or the step of READ (R111) about to execute. -/
inductive Seq where
  | idle
  | s0
  | s1
  | s2
  | s3
  | s4
  | s5
  | s6
  | s7
  | s8
  | s9
  | s10
  | s11
  | s12
  | s13
  | s14
  | s15
  | s16
  | s17
  | s18
deriving DecidableEq, Repr

/-- The working registers of READ and the sequence position (R30, R31). -/
structure Reader where
  /-- `X`: the X axis value being built. -/
  x : Byte
  /-- `Y`: the Y axis value being built. -/
  y : Byte
  /-- `RAW`: the serial bits, raw order. -/
  raw : RawBits
  /-- `I`: the index of the next serial bit, 0..8. -/
  i : Fin 9
  /-- `seq`. -/
  seq : Seq
deriving DecidableEq, Repr

/-- The line registers: the two output latches and the seven directions (R25 to R28). -/
structure Lines where
  /-- `LOADLVL` (R25). -/
  loadLvl : Level
  /-- `CLKLVL` (R26). -/
  clkLvl : Level
  /-- `CLKDIR` (R27). -/
  clkDir : Dir
  upDir : Dir
  downDir : Dir
  leftDir : Dir
  rightDir : Dir
  dataDir : Dir
  loadDir : Dir
deriving DecidableEq, Repr

/-- The platform's interrupt-enable state and the copy INIT saves of it (R11, R36). The spec does not say what changes the former
outside INIT; in the model the platform's move `setInterrupts` does, and no step of the block: DESIGN CHOICE (log 6). -/
structure Irq where
  enabled : Bool
  /-- The saved copy `s`; none when no critical section is open. -/
  saved : Option Bool
deriving DecidableEq, Repr

/-- The status every operation ends with (R201). -/
inductive Status where
  /-- `E_NONE`, code 0. -/
  | none
  /-- `E_BUFSIZE`, code 1. -/
  | bufSize
  /-- `E_RESERVED`, code 2. -/
  | reserved
deriving DecidableEq, Repr

/-- The result of an operation (R89). -/
inductive Value where
  /-- Completion only: INIT, UPDATE, BUILDREPORT, and a rejected command. -/
  | unit
  /-- CHANGED's bit. -/
  | bit (b : Bit)
  /-- GET_REPORTSIZE's or GET_DESCSIZE's integer. -/
  | int (n : Nat)
  /-- GET_DESC's bytes. -/
  | bytes (l : List Byte)
deriving DecidableEq, Repr

/-- What the host gets back from one command (R89, R193): its status and its result. -/
structure Reply where
  status : Status
  value : Value
  /-- The bytes `OUT[0..2]` the host finds after a BUILDREPORT that exported (R193); none after every other command. -/
  out : Option (List Byte) := none
deriving DecidableEq, Repr

/-- One command as the host issues it: the byte and, beside it, the buffer reference (R86, R87, R93). Buffers are named, not
addressed (R50, R61); a name is a number that is only ever compared. -/
structure Command where
  byte : Byte
  out : Option Nat
deriving DecidableEq, Repr

/-- The caller's buffers (R50, R51): names and contents. One canonical form, `Memory.wf`: names strictly rising, no empty
buffer listed; an unlisted name is a buffer of length 0. -/
abbrev Memory := List (Nat × List Byte)

/-- The state of one instance (R20) and of the parts of its surroundings that the rules mention. -/
structure State where
  /-- `LastRead` (R21). -/
  lastRead : Report
  /-- `LastReported` (R22). -/
  lastReported : Report
  /-- `Cold`, the cold-start flag (R23, R24). -/
  cold : Bool
  /-- `Inited`, the ghost flag (R29). -/
  inited : Bool
  /-- The line registers (R25 to R28). -/
  lines : Lines
  /-- The working registers of READ and `seq` (R30, R31). -/
  reader : Reader
  /-- The platform's interrupt-enable state (R36). -/
  irq : Irq
  /-- The caller's buffers (R51). -/
  mem : Memory
  /-- The commands the host has issued and the block has not begun, oldest first (R69, R187). -/
  pending : List Command
  /-- The buffer reference handed over beside the command last taken (R87). -/
  outRef : Option Nat
  /-- What the host has got back, oldest first (R193). -/
  replies : List Reply
  /-- The event history, oldest first (R71). -/
  history : List LineEvent
  /-- The model's own: the answers the environment gives to the next PinReads, oldest first (log 9). -/
  pins : List Level
  /-- The model's own: the next delays' excess over their minimum, oldest first (log 10). -/
  draws : List Nat
deriving DecidableEq, Repr

/-- The reasons the machine stops with a fault: none. No rule of the spec stops the block (R189, R200); a contract
violation is taken as the spec describes it (`reject`) and the machine goes on. -/
inductive Fault where
deriving DecidableEq, Repr

/-- The reasons an instruction has no meaning. -/
inductive Refusal where
  /-- Raised only by an arm of `exec` whose instruction has no meaning yet; no arm does. Safe: it stops. -/
  | notModelled (mnemonic : String)
deriving DecidableEq, Repr

/-- What the spec gives no reset value (R39): the line registers, READ's working registers, the platform's state; and the
caller's buffers, of whose names, lengths and bytes at construction it says nothing (R51, R188; log 23). -/
structure Unspecified where
  lines : Lines
  x : Byte
  y : Byte
  raw : RawBits
  i : Fin 9
  irqEnabled : Bool
  mem : Memory
deriving DecidableEq, Repr

/-- Construction (R230, R231, R39) for any `RESET_BUF` and any value of what the spec leaves unspecified, the caller's buffers
among it (log 23). The lists of commands, replies, events, answers and draws start empty (logs 2, 8, 22, 9, 10). -/
def State.construct (buf : Report) (u : Unspecified) : State where
  lastRead := buf
  lastReported := buf
  cold := true
  inited := false
  lines := u.lines
  reader := { x := u.x, y := u.y, raw := u.raw, i := u.i, seq := .idle }
  irq := { enabled := u.irqEnabled, saved := none }
  mem := u.mem
  pending := []
  outRef := none
  replies := []
  history := []
  pins := []
  draws := []

/-- The values the model names for what the spec leaves unspecified: zeros, and no buffer, so that every name is a buffer of
length 0 until the host provides one (`provide`). DESIGN CHOICE (logs 4, 5, 6, 23). -/
def Unspecified.named : Unspecified where
  lines :=
    { loadLvl := .low, clkLvl := .low, clkDir := .input, upDir := .input, downDir := .input, leftDir := .input,
      rightDir := .input, dataDir := .input, loadDir := .input }
  x := 0x00#8
  y := 0x00#8
  raw := ⟨false, false, false, false, false, false, false, false⟩
  i := 0
  irqEnabled := false
  mem := []

/-- The machine right after reset (R39, R231). -/
def State.reset : State := State.construct Config.resetBuf Unspecified.named

end Sys2Proof.Machine
end

