-- ==== Sys2Proof/Machine/Ops.lean ====
section
/-! DEFINITION. The named operations every meaning is written over: the line primitives (00_scope.md R9, R10, 20_memory.md
R55 to R57), the interrupt mask (R11), the caller's buffers (R51, R61), the 3-byte copies (R58), the end of an operation and
its rejection (60_exceptions.md R201, R203). -/

namespace Sys2Proof.Machine

/-! ## Lines -/

/-- The level the next `PinRead(L)` returns (R55): the environment's, for whatever direction the line has; past the answers
listed in `pins` the uninterpreted oracle over the history (log 9). -/
def pinAnswer (l : Line) (s : State) : Level :=
  match s.pins with
  | [] => Config.pinOracle s.history l
  | v :: _ => v

/-- `PinRead(L)` (R55): no effect on the block; the answer is used up and the event recorded (R71). -/
def pinRead (l : Line) (s : State) : State :=
  { s with pins := s.pins.tail, history := s.history ++ [.rd l (pinAnswer l s)] }

/-- The latch of an output-role line takes level `v` (R56). The input-role lines have no latch and no rule writes them. -/
def Lines.setLatch (l : Line) (v : Level) (r : Lines) : Lines :=
  match l with
  | .load => { r with loadLvl := v }
  | .clk => { r with clkLvl := v }
  | .up => r
  | .down => r
  | .left => r
  | .right => r
  | .data => r

/-- The direction of a line becomes `d` (R57). -/
def Lines.setDir (l : Line) (d : Dir) (r : Lines) : Lines :=
  match l with
  | .up => { r with upDir := d }
  | .down => { r with downDir := d }
  | .left => { r with leftDir := d }
  | .right => { r with rightDir := d }
  | .data => { r with dataDir := d }
  | .load => { r with loadDir := d }
  | .clk => { r with clkDir := d }

/-- The level the block drives on a line: its latch while the line is an output, nothing otherwise (R9, R52, R57). An input-role
line has no latch; that the block drives nothing on one whose direction before INIT is Out, where the spec leaves the level
open (R232), is the model's choice: DESIGN CHOICE (log 24). -/
def Lines.driven (l : Line) (r : Lines) : Option Level :=
  match l with
  | .load => if r.loadDir = .output then some r.loadLvl else none
  | .clk => if r.clkDir = .output then some r.clkLvl else none
  | .up => none
  | .down => none
  | .left => none
  | .right => none
  | .data => none

/-- `PinWrite(L, v)` (R9, R56). -/
def pinWrite (l : Line) (v : Level) (s : State) : State :=
  { s with lines := s.lines.setLatch l v, history := s.history ++ [.wr l v] }

/-- `PinDir(L, d)` (R9, R57). -/
def pinDir (l : Line) (d : Dir) (s : State) : State :=
  { s with lines := s.lines.setDir l d, history := s.history ++ [.dir l d] }

/-- The time of the next delay of minimum `min` (R10): the minimum and a free excess (log 10), so never below it (R236). -/
def delayTime (min : Nat) (s : State) : Nat :=
  match s.draws with
  | [] => min + Config.delayExtra s.history
  | d :: _ => min + d

/-- `Delay(t)`, t at least `min` (R9, R10): nothing else of the block happens meanwhile. -/
def delay (min : Nat) (s : State) : State :=
  { s with draws := s.draws.tail, history := s.history ++ [.dly (delayTime min s)] }

/-! ## The interrupt mask -/

/-- `s <- IrqSaveAndMask()` (R11): the enable state is recorded and interrupts are suppressed. Masking always succeeds: what
happens when INIT's caller is not able to mask is open (R211), and that case is left out: DESIGN CHOICE (log 25). -/
def irqSaveAndMask (s : State) : State :=
  { s with irq := { enabled := false, saved := some s.irq.enabled } }

/-- `IrqRestore(s)` (R11): the recorded state is put back; the copy is held no longer (R36). -/
def irqRestore (s : State) : State :=
  { s with irq := { enabled := s.irq.saved.getD s.irq.enabled, saved := none } }

/-! ## The caller's buffers -/

/-- The canonical form from name `lo` on: names at least `lo` and rising, no empty buffer listed. -/
def Memory.wfFrom : Nat → Memory → Bool
  | _, [] => true
  | lo, (n, bytes) :: rest => decide (lo ≤ n) && !bytes.isEmpty && Memory.wfFrom (n + 1) rest

/-- The canonical form of the caller's buffers. -/
def Memory.wf (m : Memory) : Bool := Memory.wfFrom 0 m

/-- The bytes of a buffer; an unlisted name is a buffer of length 0 (log 7). -/
def Memory.read : Memory → Nat → List Byte
  | [], _ => []
  | (n, bytes) :: rest, b => if n = b then bytes else Memory.read rest b

/-- A buffer's bytes become `new`, the canonical form kept. -/
def Memory.write : Memory → Nat → List Byte → Memory
  | [], b, new => if new.isEmpty then [] else [(b, new)]
  | (n, bytes) :: rest, b, new =>
    if b < n then
      if new.isEmpty then (n, bytes) :: rest else (b, new) :: (n, bytes) :: rest
    else if b = n then
      if new.isEmpty then rest else (b, new) :: rest
    else (n, bytes) :: Memory.write rest b new

/-- Byte `k` of buffer `b`, none past its end (R51: buffers are byte-indexed from 0). -/
def Memory.byteAt (m : Memory) (b : Nat) (k : Nat) : Option Byte := (m.read b)[k]?

/-! ## Report copies -/

/-- The three bytes of a report in index order (R58): byte 0 X, byte 1 Y, byte 2 buttons. -/
def Report.toBytes (r : Report) : List Byte := [r.xAxis, r.yAxis, r.buttons]

/-- `MemWrite(OUT, 3, r)` (R12, R161): bytes 0..2 of the buffer become the report's, the bytes beyond stay (R61). -/
def overwriteHead (r : Report) (old : List Byte) : List Byte := Report.toBytes r ++ old.drop Config.reportSize

/-- `MemWrite(LastRead, 3, r)` (R183): all three bytes. -/
def storeRead (r : Report) (s : State) : State := { s with lastRead := r }

/-- Commit (R162): `MemWrite(LastReported, 3, MemRead(LastRead, 3))`. -/
def commitRead (s : State) : State := { s with lastReported := s.lastRead }

/-- Export (R161): LastRead into bytes 0..2 of the buffer handed over. -/
def exportRead (s : State) : State :=
  match s.outRef with
  | none => s
  | some b => { s with mem := Memory.write s.mem b (overwriteHead s.lastRead (Memory.read s.mem b)) }

/-! ## The end of an operation -/

/-- The number of a status (R201, D12). -/
def Status.code : Status → Nat
  | .none => 0
  | .bufSize => 1
  | .reserved => 2

/-- An operation carried out: status `E_NONE` and its result go to the host (R89, R201). -/
def complete (v : Value) (s : State) : State := { s with replies := s.replies ++ [{ status := .none, value := v }] }

/-- The bytes `OUT[0..2]` as the host finds them in its buffer (R188, R193). -/
def outHead (s : State) : Option (List Byte) := s.outRef.map fun b => (Memory.read s.mem b).take Config.reportSize

/-- An export carried out: completion, no result, and the host finds the report in its buffer (R160, R188, R193). -/
def completeExport (s : State) : State :=
  { s with replies := s.replies ++ [{ status := .none, value := .unit, out := outHead s }] }

/-- What the host sees of a run, in issue order (R193): status and result of each command, and `OUT[0..2]` after each export;
of the block's registers and lines it sees nothing (R180). -/
def hostView (s : State) : List Reply := s.replies

/-- `raise ContractViolation(code)` (R203), the block's only trap entry: the operation ends at once with the status; no
state changes, nothing is written to OUT, no line event is issued, nothing is saved, no mode changes and there is no
vector. There is no return operation: the block stays idle and takes the next command (R210). -/
def reject (code : Status) (s : State) : State := { s with replies := s.replies ++ [{ status := code, value := .unit }] }

end Sys2Proof.Machine
end

