-- ==== Sys2Proof/Machine/Operands.lean ====
section
/-! DEFINITION. Operand assembly (30_encoding.md R87, R88): BUILDREPORT's optional buffer, the only operand the host hands
over, and the pieces READ assembles its result from. -/

namespace Sys2Proof.Machine

/-- The bytes of the buffer handed over beside the command (R87); with no reference, a buffer of length 0 (log 16). -/
def outBytes (s : State) : List Byte :=
  match s.outRef with
  | none => []
  | some b => Memory.read s.mem b

/-- The operand check of BUILDREPORT (R163, R202): `E = 1 and len(OUT) < 3`. -/
def outTooShort (e : Bool) (s : State) : Bool := e && decide ((outBytes s).length < Config.reportSize)

/-- The conditional overwrite of an axis byte (R88, R113 to R117): an asserted line (level 0) writes `code`, whatever the
byte held; otherwise nothing is written. -/
def overwriteAxis (v : Level) (code old : Byte) : Byte := if v = .low then code else old

/-- Active-low: level 0 is pressed (R81, R97, R121). -/
def pressed (v : Level) : Bool := v == .low

/-- `RAW[i] <- p` (R121); an index past 7 names no bit. -/
def RawBits.set (r : RawBits) (i : Nat) (p : Bool) : RawBits :=
  match i with
  | 0 => { r with b0 := p }
  | 1 => { r with b1 := p }
  | 2 => { r with b2 := p }
  | 3 => { r with b3 := p }
  | 4 => { r with b4 := p }
  | 5 => { r with b5 := p }
  | 6 => { r with b6 := p }
  | 7 => { r with b7 := p }
  | _ => r

/-- `RAW[i]`, none past index 7. -/
def RawBits.get (r : RawBits) (i : Nat) : Option Bool :=
  match i with
  | 0 => some r.b0
  | 1 => some r.b1
  | 2 => some r.b2
  | 3 => some r.b3
  | 4 => some r.b4
  | 5 => some r.b5
  | 6 => some r.b6
  | 7 => some r.b7
  | _ => none

/-- `RAW <- 0` (R120). -/
def RawBits.zero : RawBits := ⟨false, false, false, false, false, false, false, false⟩

/-- A Boolean as a bit of a byte at position n (R8, R88): `zext_8(bit) << n`. -/
def bitAt (n : Nat) (p : Bool) : Byte := if p then BitVec.ofNat 8 (2 ^ n) else 0#8

/-- `RAWBYTE` (R81): the serial frame as one byte, `RAW[i]` at bit i. -/
def RawBits.toByte (r : RawBits) : Byte :=
  bitAt 0 r.b0 ||| bitAt 1 r.b1 ||| bitAt 2 r.b2 ||| bitAt 3 r.b3 ||| bitAt 4 r.b4 ||| bitAt 5 r.b5 ||| bitAt 6 r.b6 ||| bitAt 7 r.b7

end Sys2Proof.Machine
end

