-- ==== Sys2Proof/Machine/Encoder.lean ====
section
/-! DEFINITION. ENCODE, the State-to-Report Encoder (41_encoder.md R140 to R145), internal to UPDATE. -/

namespace Sys2Proof.Machine

/-- The button byte `W(state)`, wire order (R83, R141). -/
def buttonByte (c : Ctrl) : Byte :=
  (if c.red then 0x01#8 else 0x00#8) ||| (if c.blue then 0x02#8 else 0x00#8) ||| (if c.green then 0x04#8 else 0x00#8)
    ||| (if c.yellow then 0x08#8 else 0x00#8) ||| (if c.start then 0x10#8 else 0x00#8) ||| (if c.l then 0x20#8 else 0x00#8)
    ||| (if c.r then 0x40#8 else 0x00#8) ||| (if c.extra then 0x80#8 else 0x00#8)

/-- ENCODE (R140): axes copied as they are (R142), buttons in wire order. -/
def encodeReport (c : Ctrl) : Report := { xAxis := c.x, yAxis := c.y, buttons := buttonByte c }

/-- The remap of R84 on bytes: bit n of the wire byte comes from this bit of RAWBYTE. -/
def wireSource : Nat → Nat
  | 0 => 1
  | 1 => 0
  | 2 => 3
  | 3 => 2
  | 4 => 6
  | 5 => 5
  | 6 => 4
  | n => n

end Sys2Proof.Machine
end

