-- ==== Sys2Proof/Machine/Reader.lean ====
section
/-! DEFINITION. READ, the Controller State Reader (40_reader.md), twice as the spec gives it: the step sequence S0 to S18
(R111 to R125), one definition a step, and the function of the samples (R126) with its event trace (R128, R129). -/

namespace Sys2Proof.Machine

/-! ## The step sequence -/

/-- S0 (R112): both axes start centred. -/
def readS0 (s : State) : State :=
  { s with reader := { s.reader with x := Config.axisCentre, y := Config.axisCentre, seq := .s1 } }

/-- S1, Up (R113): `su <- PinRead(UP); if su = 0 then Y <- 0x00`. -/
def readS1 (s : State) : State :=
  { pinRead .up s with
    reader := { s.reader with y := overwriteAxis (pinAnswer .up s) Config.axisMin s.reader.y, seq := .s2 } }

/-- S2, Down (R114): `sd <- PinRead(DOWN); if sd = 0 then Y <- 0xFF`. -/
def readS2 (s : State) : State :=
  { pinRead .down s with
    reader := { s.reader with y := overwriteAxis (pinAnswer .down s) Config.axisMax s.reader.y, seq := .s3 } }

/-- S3, Left (R115): `sl <- PinRead(LEFT); if sl = 0 then X <- 0x00` (the value is decision D4, log 13). -/
def readS3 (s : State) : State :=
  { pinRead .left s with
    reader := { s.reader with x := overwriteAxis (pinAnswer .left s) Config.axisMin s.reader.x, seq := .s4 } }

/-- S4, Right (R116): `sr <- PinRead(RIGHT); if sr = 0 then X <- 0xFF` (the value is decision D4, log 13). -/
def readS4 (s : State) : State :=
  { pinRead .right s with
    reader := { s.reader with x := overwriteAxis (pinAnswer .right s) Config.axisMax s.reader.x, seq := .s5 } }

/-- S5 (R118): `PinWrite(LOAD, 1)`. -/
def readS5 (s : State) : State := { pinWrite .load .high s with reader := { s.reader with seq := .s6 } }

/-- S6 (R118): `Delay(T_LOAD)`. -/
def readS6 (s : State) : State := { delay Config.tLoadMin s with reader := { s.reader with seq := .s7 } }

/-- S7 (R118): `PinWrite(LOAD, 0)`. -/
def readS7 (s : State) : State := { pinWrite .load .low s with reader := { s.reader with seq := .s8 } }

/-- S8 (R118): `Delay(T_SETTLE)`. -/
def readS8 (s : State) : State := { delay Config.tSettleMin s with reader := { s.reader with seq := .s9 } }

/-- S9 (R119): `PinDir(CLK, Out)`. -/
def readS9 (s : State) : State := { pinDir .clk .output s with reader := { s.reader with seq := .s10 } }

/-- S10 (R120): `I <- 0; RAW <- 0`. -/
def readS10 (s : State) : State :=
  { s with reader := { s.reader with i := 0, raw := RawBits.zero, seq := .s11 } }

/-- S11 (R121): `sb <- PinRead(DATA); RAW[I] <- (sb = 0)`. -/
def readS11 (s : State) : State :=
  { pinRead .data s with
    reader := { s.reader with raw := RawBits.set s.reader.raw s.reader.i.val (pressed (pinAnswer .data s)), seq := .s12 } }

/-- S12 (R122): `PinWrite(CLK, 1)`. -/
def readS12 (s : State) : State := { pinWrite .clk .high s with reader := { s.reader with seq := .s13 } }

/-- S13 (R122): `Delay(T_CLKH[I])`. -/
def readS13 (s : State) : State := { delay Config.tClkHMin s with reader := { s.reader with seq := .s14 } }

/-- S14 (R122): `PinWrite(CLK, 0)`. -/
def readS14 (s : State) : State := { pinWrite .clk .low s with reader := { s.reader with seq := .s15 } }

/-- S15 (R122): `Delay(T_CLKL[I])`. -/
def readS15 (s : State) : State := { delay Config.tClkLMin s with reader := { s.reader with seq := .s16 } }

/-- `I + 1`; I never exceeds 8 (R123). -/
def nextIndex (i : Fin 9) : Fin 9 := if h : i.val < 8 then ⟨i.val + 1, by omega⟩ else i

/-- S16 (R123): `I <- I + 1`; S11 while `I < 8`, else S17. -/
def readS16 (s : State) : State :=
  { s with
    reader :=
      { s.reader with
        i := nextIndex s.reader.i
        seq := if (nextIndex s.reader.i).val < Config.nBits then .s11 else .s17 } }

/-- S17 (R124): `PinDir(CLK, In)`. -/
def readS17 (s : State) : State := { pinDir .clk .input s with reader := { s.reader with seq := .s18 } }

/-- S18 (R111, R125): READ returns (`readResult`); `seq <- Idle`. -/
def readS18 (s : State) : State := { s with reader := { s.reader with seq := .idle } }

/-- One step of the sequence (R111): the one `seq` names. While idle no READ is in progress and nothing happens. -/
def readStep (s : State) : State :=
  match s.reader.seq with
  | .idle => s
  | .s0 => readS0 s
  | .s1 => readS1 s
  | .s2 => readS2 s
  | .s3 => readS3 s
  | .s4 => readS4 s
  | .s5 => readS5 s
  | .s6 => readS6 s
  | .s7 => readS7 s
  | .s8 => readS8 s
  | .s9 => readS9 s
  | .s10 => readS10 s
  | .s11 => readS11 s
  | .s12 => readS12 s
  | .s13 => readS13 s
  | .s14 => readS14 s
  | .s15 => readS15 s
  | .s16 => readS16 s
  | .s17 => readS17 s
  | .s18 => readS18 s

/-- `n` steps of the sequence. -/
def readSteps : Nat → State → State
  | 0, s => s
  | n + 1, s => readSteps n (readStep s)

/-- `seq <- S0` (R31): a READ begins. -/
def startRead (s : State) : State := { s with reader := { s.reader with seq := .s0 } }

/-- READ (R110): the whole sequence, 61 positions (R31). -/
def runRead (s : State) : State := readSteps Config.readStepCount (startRead s)

/-- The state READ returns at S18 (R125). -/
def readResult (r : Reader) : Ctrl where
  x := r.x
  y := r.y
  blue := r.raw.b0
  red := r.raw.b1
  yellow := r.raw.b2
  green := r.raw.b3
  r := r.raw.b4
  l := r.raw.b5
  start := r.raw.b6
  extra := r.raw.b7

/-! ## READ as a function of what the environment gave it -/

/-- One iteration of the loop (R121, R122): the sample and the two clock delays. -/
structure BitCycle where
  sb : Level
  tHigh : Nat
  tLow : Nat
deriving DecidableEq, Repr

/-- What one READ takes from its environment (R32, R126, R128): twelve samples and eighteen delays. -/
structure ReadRun where
  su : Level
  sd : Level
  sl : Level
  sr : Level
  tLoad : Nat
  tSettle : Nat
  c0 : BitCycle
  c1 : BitCycle
  c2 : BitCycle
  c3 : BitCycle
  c4 : BitCycle
  c5 : BitCycle
  c6 : BitCycle
  c7 : BitCycle
deriving DecidableEq, Repr

/-- The eight iterations in time order. -/
def ReadRun.cycles (r : ReadRun) : List BitCycle := [r.c0, r.c1, r.c2, r.c3, r.c4, r.c5, r.c6, r.c7]

/-- READ as a function (R126). -/
def ReadRun.result (r : ReadRun) : Ctrl where
  y := if r.sd = .low then 0xFF#8 else if r.su = .low then 0x00#8 else 0x80#8
  x := if r.sr = .low then 0xFF#8 else if r.sl = .low then 0x00#8 else 0x80#8
  blue := r.c0.sb == .low
  red := r.c1.sb == .low
  yellow := r.c2.sb == .low
  green := r.c3.sb == .low
  r := r.c4.sb == .low
  l := r.c5.sb == .low
  start := r.c6.sb == .low
  extra := r.c7.sb == .low

/-- The five records of iteration i (R128, records 10+5i to 14+5i). -/
def BitCycle.events (c : BitCycle) : List LineEvent :=
  [.rd .data c.sb, .wr .clk .high, .dly c.tHigh, .wr .clk .low, .dly c.tLow]

/-- The 50 records of one READ (R128). -/
def ReadRun.trace (r : ReadRun) : List LineEvent :=
  [ .rd .up r.su, .rd .down r.sd, .rd .left r.sl, .rd .right r.sr, .wr .load .high, .dly r.tLoad, .wr .load .low,
    .dly r.tSettle, .dir .clk .output ] ++ r.cycles.flatMap BitCycle.events ++ [.dir .clk .input]

/-- The twelve samples in time order (R32). -/
def ReadRun.samples (r : ReadRun) : List Level := [r.su, r.sd, r.sl, r.sr] ++ r.cycles.map BitCycle.sb

/-- Both clock delays of an iteration meet their minimum (R122). -/
def BitCycle.meetsMinimums (c : BitCycle) : Prop := Config.tClkHMin ≤ c.tHigh ∧ Config.tClkLMin ≤ c.tLow

/-- Every delay meets its minimum (R118, R122, R128). -/
def ReadRun.meetsMinimums (r : ReadRun) : Prop :=
  Config.tLoadMin ≤ r.tLoad ∧ Config.tSettleMin ≤ r.tSettle ∧ ∀ c ∈ r.cycles, c.meetsMinimums

/-- The blocking time of a list of line events (R129): the sum of its delays; other events have no duration. -/
def blockingTime : List LineEvent → Nat
  | [] => 0
  | .dly t :: rest => t + blockingTime rest
  | .rd _ _ :: rest => blockingTime rest
  | .wr _ _ :: rest => blockingTime rest
  | .dir _ _ :: rest => blockingTime rest

/-- What the controller sees of a list of line events (R193): its `Wr`, `Dir` and `Dly` records. -/
def controllerView : List LineEvent → List LineEvent
  | [] => []
  | .rd _ _ :: rest => controllerView rest
  | .wr l v :: rest => .wr l v :: controllerView rest
  | .dir l d :: rest => .dir l d :: controllerView rest
  | .dly t :: rest => .dly t :: controllerView rest

end Sys2Proof.Machine
end

