-- ==== Sys2Proof/Machine/Capability.lean ====
section
/-! DEFINITION. INIT and UPDATE (45_capability_interface.md R181 to R184). -/

namespace Sys2Proof.Machine

/-- `Inited <- true` (R29). -/
def markInited (s : State) : State := { s with inited := true }

/-- Step `k` of INIT (R181): 0 saves and masks; 1 to 9 are `ConfigureLines()` (R182, decision D8, log 15), each latch written
before its direction; 10 restores; 11 marks. INIT has no other step. -/
def initStep (k : Nat) (s : State) : State :=
  match k with
  | 0 => irqSaveAndMask s
  | 1 => pinDir .up .input s
  | 2 => pinDir .down .input s
  | 3 => pinDir .left .input s
  | 4 => pinDir .right .input s
  | 5 => pinDir .data .input s
  | 6 => pinWrite .load .low s
  | 7 => pinDir .load .output s
  | 8 => pinWrite .clk .low s
  | 9 => pinDir .clk .input s
  | 10 => irqRestore s
  | 11 => markInited s
  | _ => s

/-- The state after the first `n` steps of INIT. -/
def initSteps : Nat → State → State
  | 0, s => s
  | n + 1, s => initStep n (initSteps n s)

/-- INIT (R181): its twelve steps. -/
def execInit (s : State) : Host.Outcome State Fault Refusal := .next (complete .unit (initSteps 12 s))

/-- The end of an UPDATE (R183): READ's result, encoded, goes to LastRead. -/
def finishUpdate (s : State) : State := complete .unit (storeRead (encodeReport (readResult s.reader)) s)

/-- UPDATE (R183, R184): READ, then ENCODE, then the store. -/
def execUpdate (s : State) : Host.Outcome State Fault Refusal := .next (finishUpdate (runRead s))

/-- One step of an UPDATE that is in progress (R63): a step of its READ, the last of which ends the UPDATE. -/
def updateStep (s : State) : State :=
  if s.reader.seq = .s18 then finishUpdate (readStep s) else readStep s

end Sys2Proof.Machine
end

