-- ==== Sys2Proof/Machine/Flags.lean ====
section
/-! DEFINITION. The block's one flag, `Cold` (10_state.md R23, R24), and the comparison CHANGED makes (42_change_detector.md
R150 to R152). There are no arithmetic condition codes (R23). -/

namespace Sys2Proof.Machine

/-- The second reading of `Cold` (R24): the two-state machine. -/
inductive ColdState where
  | uninitialized
  | ready
deriving DecidableEq, Repr

/-- `Cold = true` is `Uninitialized`, `Cold = false` is `Ready` (R24). -/
def coldState (s : State) : ColdState := if s.cold then .uninitialized else .ready

/-- `Cold <- false` (R151). -/
def clearCold (s : State) : State := { s with cold := false }

/-- Two reports differ in at least one of their three bytes (R152). -/
def Report.differs (a b : Report) : Bool :=
  a.xAxis != b.xAxis || a.yAxis != b.yAxis || a.buttons != b.buttons

/-- What CHANGED answers (R150): true at the cold start, else the comparison. -/
def changedAnswer (s : State) : Bool := if s.cold then true else Report.differs s.lastRead s.lastReported

/-- A Boolean as a result bit (R89): 1 true, 0 false. -/
def boolBit (p : Bool) : Bit := if p then 1#1 else 0#1

end Sys2Proof.Machine
end

