-- ==== Sys2Proof/Machine/ChangeDetector.lean ====
section
/-! DEFINITION. CHANGED, the Change Detector (42_change_detector.md). -/

namespace Sys2Proof.Machine

/-- CHANGED (R150): answers, and clears `Cold`, which only the first call finds set (R151). -/
def execChanged (s : State) : Host.Outcome State Fault Refusal :=
  .next (complete (.bit (boolBit (changedAnswer s))) (clearCold s))

end Sys2Proof.Machine
end

