-- ==== Sys2Proof/Machine/Descriptor.lean ====
section
/-! DEFINITION. The Descriptor Provider (44_descriptor.md): the three attribute reads, and the layout the descriptor
declares (R170, 30_encoding.md R92). -/

namespace Sys2Proof.Machine

/-- GET_REPORTSIZE (R171): 3, always. -/
def execGetReportsize (s : State) : Host.Outcome State Fault Refusal := .next (complete (.int Config.reportSize) s)

/-- GET_DESCSIZE (R173): the length of the descriptor. -/
def execGetDescsize (s : State) : Host.Outcome State Fault Refusal := .next (complete (.int Config.descSize) s)

/-- GET_DESC (R172): the descriptor's bytes, the same on every call. -/
def execGetDesc (s : State) : Host.Outcome State Fault Refusal := .next (complete (.bytes Config.desc) s)

/-- A field the descriptor declares (R92, R170): an axis, a button or padding. -/
inductive DeclaredField where
  | axis (n : Nat)
  | button (n : Nat)
  | padding
deriving DecidableEq, Repr

/-- The bits of a declared field (R170). -/
def DeclaredField.width : DeclaredField → Nat
  | .axis _ => 8
  | .button _ => 1
  | .padding => 1

/-- The layout the descriptor declares (R92, R170): two axes, seven buttons, one padding bit. -/
def declaredLayout : List DeclaredField :=
  [.axis 1, .axis 2, .button 1, .button 2, .button 3, .button 4, .button 5, .button 6, .button 7, .padding]

/-- The bits of a list of declared fields. -/
def declaredBits : List DeclaredField → Nat
  | [] => 0
  | f :: rest => f.width + declaredBits rest

/-- What the block puts in each declared field (R92): button n is bit n-1 of byte 2, padding is bit 7, which carries Extra
(R174); 0 for a field the layout does not have. -/
def declaredValue (r : Report) : DeclaredField → Nat
  | .axis 1 => r.xAxis.toNat
  | .axis 2 => r.yAxis.toNat
  | .axis _ => 0
  | .button n => if 1 ≤ n ∧ n ≤ 7 then (r.buttons.getLsbD (n - 1)).toNat else 0
  | .padding => (r.buttons.getLsbD 7).toNat

end Sys2Proof.Machine
end

