-- ==== Sys2Proof/Machine/ReportBuilder.lean ====
section
/-! DEFINITION. BUILDREPORT, the Report Builder (43_report_builder.md). -/

namespace Sys2Proof.Machine

/-- BUILDREPORT (R160): the operand check first (R163, R209), then export when E = 1 (R161), then commit, always (R162). After
an export the host finds the report in OUT (R188, R193). -/
def execBuildreport (e : Bool) (s : State) : Host.Outcome State Fault Refusal :=
  if outTooShort e s then .next (reject .bufSize s)
  else if e then .next (completeExport (commitRead (exportRead s)))
  else .next (complete .unit (commitRead s))

end Sys2Proof.Machine
end

