-- ==== Sys2Proof/Syntax.lean ====
section
/-! DEFINITION. The seven operations of the capability interface (30_encoding.md R86, opcode_table.json) and the fields of
the command byte. -/

namespace Sys2Proof

/-- One constructor per row of opcode_table.json. READ and ENCODE are internal and have no command (R86). -/
inductive Instr where
  /-- INIT, `init()` (R181). -/
  | init
  /-- UPDATE, `update()` (R183). -/
  | update
  /-- CHANGED, `changed() -> bool` (R150). -/
  | changed
  /-- BUILDREPORT, `buildReport(buffer?)` (R160); `e` is the export flag E: a buffer is provided. -/
  | buildreport (e : Bool)
  /-- GET_REPORTSIZE, `reportSize` (R171). -/
  | getReportsize
  /-- GET_DESCSIZE, `descriptorSize` (R173). -/
  | getDescsize
  /-- GET_DESC, `descriptor` (R172). -/
  | getDesc
deriving DecidableEq, Repr

/-- The fields of format C (R86): Z in bits 7:4, E in bit 3, OP in bits 2:0. -/
structure CommandFields where
  z : BitVec 4
  e : BitVec 1
  op : BitVec 3
deriving DecidableEq, Repr

end Sys2Proof
end

