-- ==== Sys2Proof/Machine/Dispatch.lean ====
section
/-! DEFINITION. The meaning of every instruction: one arm per constructor of `Instr` (45_capability_interface.md R186). -/

namespace Sys2Proof.Machine

def exec (i : Instr) (s : State) : Host.Outcome State Fault Refusal :=
  match i with
  | .init => Sys2Proof.Machine.execInit s
  | .update => Sys2Proof.Machine.execUpdate s
  | .changed => Sys2Proof.Machine.execChanged s
  | .buildreport e => Sys2Proof.Machine.execBuildreport e s
  | .getReportsize => Sys2Proof.Machine.execGetReportsize s
  | .getDescsize => Sys2Proof.Machine.execGetDescsize s
  | .getDesc => Sys2Proof.Machine.execGetDesc s

end Sys2Proof.Machine
end

