-- ==== Sys2Proof/WellFormed.lean ====
section
/-! DEFINITION. Which command fields are an operation's and which are reserved (30_encoding.md R90), and the fields of each
instruction (R86). An `Instr` term has no ill-formed operand; the checks refuse ill-formed FIELDS. -/

namespace Sys2Proof

/-- R90: a byte with `Z != 0` is reserved. -/
def CommandFields.zeroOk (f : CommandFields) : Bool := f.z == 0#4

/-- R90: a byte with `OP = 7` is reserved. -/
def CommandFields.opOk (f : CommandFields) : Bool := f.op != 7#3

/-- R90: a byte with `E = 1` and `OP != 3` is reserved. -/
def CommandFields.flagOk (f : CommandFields) : Bool := f.e == 0#1 || f.op == 3#3

/-- R90: not reserved. -/
def CommandFields.wellFormed (f : CommandFields) : Bool := f.zeroOk && f.opOk && f.flagOk

/-- The fields of each operation, from the table of R86. -/
def Instr.fields : Instr → CommandFields
  | .init => ⟨0#4, 0#1, 0#3⟩
  | .update => ⟨0#4, 0#1, 1#3⟩
  | .changed => ⟨0#4, 0#1, 2#3⟩
  | .buildreport e => ⟨0#4, BitVec.ofBool e, 3#3⟩
  | .getReportsize => ⟨0#4, 0#1, 4#3⟩
  | .getDescsize => ⟨0#4, 0#1, 5#3⟩
  | .getDesc => ⟨0#4, 0#1, 6#3⟩

/-- An instruction is well formed when its fields are not reserved. -/
def Instr.wellFormed (i : Instr) : Bool := i.fields.wellFormed

end Sys2Proof
end

