-- ==== Sys2Proof/Decode.lean ====
section
/-! DEFINITION. From command bytes to instructions and back (30_encoding.md R86, R90, R93; 45_capability_interface.md R186).
Decoding reads no state. -/

namespace Sys2Proof

/-- Why the decoder gives no instruction (R90): the clause of the rule that makes the byte reserved, the first that
applies in the order Z, OP, E; or there is no byte. -/
inductive DecodeError where
  /-- There is no command byte. -/
  | noByte
  /-- `Z != 0`. -/
  | reservedZ
  /-- `OP = 7`. -/
  | reservedOp
  /-- `E = 1` with `OP != 3`. -/
  | reservedE
deriving DecidableEq, Repr

/-- The fields of a command byte (R86): `C[7:4]`, `C[3]`, `C[2:0]`. -/
def fieldsOfByte (c : Byte) : CommandFields :=
  { z := c.extractLsb' 4 4, e := c.extractLsb' 3 1, op := c.extractLsb' 0 3 }

/-- The operation of fields that are not reserved, by `OP` (R86); the three checks come first (R90). -/
def instrOfFields (f : CommandFields) : Except DecodeError Instr :=
  if !f.zeroOk then .error .reservedZ
  else if !f.opOk then .error .reservedOp
  else if !f.flagOk then .error .reservedE
  else if f.op == 0#3 then .ok .init
  else if f.op == 1#3 then .ok .update
  else if f.op == 2#3 then .ok .changed
  else if f.op == 3#3 then .ok (.buildreport (f.e == 1#1))
  else if f.op == 4#3 then .ok .getReportsize
  else if f.op == 5#3 then .ok .getDescsize
  else .ok .getDesc

/-- Decode one command byte (R86, R186). -/
def decodeByte (c : Byte) : Except DecodeError Instr := instrOfFields (fieldsOfByte c)

/-- Decode the first command of a byte sequence; every command is exactly one byte (R93). -/
def decode : List Byte → Except DecodeError (Instr × List Byte)
  | [] => .error .noByte
  | c :: rest => (decodeByte c).map fun i => (i, rest)

/-- The byte `{Z, E, OP}` (R86). -/
def byteOfFields (f : CommandFields) : Byte := f.z ++ f.e ++ f.op

/-- The command byte of an instruction, from the table of R86. -/
def encodeByte (i : Instr) : Byte := byteOfFields i.fields

/-- The bytes of an instruction: always one (R93). -/
def encode (i : Instr) : List Byte := [encodeByte i]

/-- One row of the operation table (R86): selected when `C & mask = match`. -/
structure OpRow where
  mnemonic : String
  matchBits : Byte
  maskBits : Byte
deriving DecidableEq, Repr

/-- R86: an operation is selected when `C & mask = match`. -/
def OpRow.selects (r : OpRow) (c : Byte) : Bool := (c &&& r.maskBits) == r.matchBits

/-- The operation table of R86 and opcode_table.json. -/
def opTable : List OpRow :=
  [ ⟨"INIT", 0x00#8, 0xFF#8⟩, ⟨"UPDATE", 0x01#8, 0xFF#8⟩, ⟨"CHANGED", 0x02#8, 0xFF#8⟩, ⟨"BUILDREPORT", 0x03#8, 0xF7#8⟩,
    ⟨"GET_REPORTSIZE", 0x04#8, 0xFF#8⟩, ⟨"GET_DESCSIZE", 0x05#8, 0xFF#8⟩, ⟨"GET_DESC", 0x06#8, 0xFF#8⟩ ]

/-- The mnemonic of an instruction (R86, R94). -/
def Instr.mnemonic : Instr → String
  | .init => "INIT"
  | .update => "UPDATE"
  | .changed => "CHANGED"
  | .buildreport _ => "BUILDREPORT"
  | .getReportsize => "GET_REPORTSIZE"
  | .getDescsize => "GET_DESCSIZE"
  | .getDesc => "GET_DESC"

/-- The byte that holds the low `nbits` bits of `w`, the bits above them zero. -/
def tableByte (nbits w : Nat) : Byte := BitVec.ofNat 8 (w % 2 ^ nbits)

/-- The instruction the decoder reads from a table word: one byte (R93), its bits numbered as the table numbers them. -/
def decodeTableWord (nbits w : Nat) : Option Instr :=
  match decode [tableByte nbits w] with
  | .ok (i, _) => some i
  | .error _ => none

end Sys2Proof
end

