-- ==== Sys2Proof/Machine/Fetch.lean ====
section
/-! DEFINITION. How a command comes to the block: taken from the host's list when the block is idle (45_capability_interface.md
R186, R187, R189). -/

namespace Sys2Proof.Machine

/-- What an idle block finds. -/
inductive Fetched where
  /-- No command: the block waits (R40, R215). -/
  | waiting
  /-- A reserved command byte (R90), taken from the list. -/
  | reserved (s : State)
  /-- An operation, its command taken from the list. -/
  | operation (i : Instr) (s : State)
deriving DecidableEq, Repr

/-- The command is begun: it leaves the list, and the buffer reference beside it is handed over (R87). -/
def takeCommand (c : Command) (rest : List Command) (s : State) : State :=
  { s with pending := rest, outRef := c.out }

/-- Take the oldest command and decode its byte (R69, R186). -/
def fetch (s : State) : Fetched :=
  match s.pending with
  | [] => .waiting
  | c :: rest =>
    match decode [c.byte] with
    | .ok (i, _) => .operation i (takeCommand c rest s)
    | .error _ => .reserved (takeCommand c rest s)

/-- The host issues commands: they join the end of the list (R69). -/
def issue (cs : List Command) (s : State) : State := { s with pending := s.pending ++ cs }

/-- The host prepares a buffer of its own (R51, R188): the buffer named `b` holds these bytes, whatever it held. -/
def provide (b : Nat) (bytes : List Byte) (s : State) : State := { s with mem := Memory.write s.mem b bytes }

/-- The platform's software enables or disables interrupts (R36, R188). That this happens between commands only, and in one flag,
is the model's choice: DESIGN CHOICE (log 6). -/
def setInterrupts (on : Bool) (s : State) : State := { s with irq := { s.irq with enabled := on } }

/-- The name `withFetchWord` gives the buffer it hands over. -/
def fetchBuffer : Nat := 0

/-- The buffer a table word's command is handed over with (R87, R188: at least 3 bytes): none when E = 0. -/
def fetchOut (c : Byte) : Option Nat := if c.getLsbD 3 then some fetchBuffer else none

/-- The caller's buffers with that buffer holding at least 3 bytes, zeros where it was shorter; unchanged when E = 0. -/
def fetchMem (c : Byte) (m : Memory) : Memory :=
  if c.getLsbD 3 then
    Memory.write m fetchBuffer
      (Memory.read m fetchBuffer ++ List.replicate (Config.reportSize - (Memory.read m fetchBuffer).length) 0x00#8)
  else m

end Sys2Proof.Machine
end

