-- ==== Sys2Proof/Machine/Step.lean ====
section
/-! DEFINITION. One step of the machine. An operation is one step: it runs to completion before the next begins (20_memory.md
R63, 45_capability_interface.md R187). A state that stands inside a READ goes on by one sequence step. -/

namespace Sys2Proof.Machine

/-- One step: inside an UPDATE its next sequence step (R31, R187); else the oldest pending command, decoded and run (R186);
a reserved byte is rejected (R204); with no command the block does nothing (R215). -/
def step (s : State) : Host.Outcome State Fault Refusal :=
  if s.reader.seq = .idle then
    match fetch s with
    | .waiting => .next s
    | .reserved t => .next (reject .reserved t)
    | .operation i t => exec i t
  else .next (updateStep s)

/-- `s` with the command of a table word as the one `step` takes next: first in the list of pending commands, the block
idle, and, where its E bit is set, a buffer of at least 3 bytes beside it (log 2). -/
def State.withFetchWord (s : State) (nbits w : Nat) : State :=
  { s with
    reader := { s.reader with seq := .idle }
    pending := { byte := tableByte nbits w, out := fetchOut (tableByte nbits w) } :: s.pending
    mem := fetchMem (tableByte nbits w) s.mem }

end Sys2Proof.Machine
end

