-- ==== Sys2Proof/Machine/Pseudo.lean ====
section
/-! DEFINITION. The pseudo-instructions (30_encoding.md R95, 45_capability_interface.md R192): host-side sequences of
operations that add no behaviour. -/

namespace Sys2Proof.Machine

/-- One operation after another: the second runs only if the first answered a next state. -/
def andThen (o : Host.Outcome State Fault Refusal) (f : State → Host.Outcome State Fault Refusal) :
    Host.Outcome State Fault Refusal :=
  match o with
  | .next s => f s
  | .fault r => .fault r
  | .refused r => .refused r

/-- The host's reading of the last reply as CHANGED's bit `c` (R89). -/
def lastBit (s : State) : Bool :=
  match s.replies.getLast? with
  | some { status := _, value := .bit b, out := _ } => b == 1#1
  | some { status := _, value := .unit, out := _ } => false
  | some { status := _, value := .int _, out := _ } => false
  | some { status := _, value := .bytes _, out := _ } => false
  | none => false

/-- `BUILDREPORT buf` (R94): E = 1 with the buffer named `b` handed over. -/
def buildInto (b : Nat) (s : State) : Host.Outcome State Fault Refusal :=
  exec (.buildreport true) { s with outRef := some b }

/-- `POLL buf` (R95, R192): `UPDATE; CHANGED -> c; if c = 1 then BUILDREPORT buf`. -/
def poll (b : Nat) (s : State) : Host.Outcome State Fault Refusal :=
  andThen (exec .update s) fun s1 => andThen (exec .changed s1) fun s2 => if lastBit s2 then buildInto b s2 else .next s2

/-- `ACK` (R95, R192): `BUILDREPORT -`. -/
def ack (s : State) : Host.Outcome State Fault Refusal := exec (.buildreport false) s

/-- The polling cycle (R190) without its INIT: `n` turns of the dispatcher's loop into buffer `b`. -/
def pollCycle (b : Nat) : Nat → State → Host.Outcome State Fault Refusal
  | 0, s => .next s
  | n + 1, s => andThen (poll b s) (pollCycle b n)

end Sys2Proof.Machine
end

