-- ==== Sys2Proof/Machine/Environment.lean ====
section
/-! DEFINITION. The reference controller (40_reader.md R130): an assumption about the environment, not a rule of the block.
It commits only to what the rule commits to: directions active-low and not latched, buttons latched, bit i on DATA once the
settle delay and i complete clock pulses have followed a load pulse; and all of this only once INIT has run (R29). -/

namespace Sys2Proof.Machine

/-- What is pressed: the directions at the instants of S1 to S4, and the latched buttons `P[0..7]` in raw order (R130). -/
structure Pad where
  up : Bool
  down : Bool
  left : Bool
  right : Bool
  latched : RawBits
deriving DecidableEq, Repr

/-- Active-low: a pressed input shows level 0. -/
def activeLow (p : Bool) : Level := if p then .low else .high

/-- What the reference controller does on DATA, as far as R130 commits it (log 21). -/
inductive PadPhase where
  /-- No load pulse yet, or a clock pulse given before the bit was valid: nothing is committed to. -/
  | unloaded
  /-- LOAD is high; the buttons are latched at some instant of it. -/
  | loading
  /-- Bit `n` is on its way: the settle delay, or the clock low time, is not over. -/
  | settling (n : Nat)
  /-- Bit `n` is on DATA. -/
  | showing (n : Nat)
  /-- CLK is high in the pulse after bit `n`. -/
  | pulsing (n : Nat)
deriving DecidableEq, Repr

/-- A delay ends the settling of a bit (R67, R130). -/
def PadPhase.afterDelay : PadPhase → PadPhase
  | .unloaded => .unloaded
  | .loading => .loading
  | .settling n => .showing n
  | .showing n => .showing n
  | .pulsing n => .pulsing n

/-- LOAD driven low ends a load pulse (R130), and only a load pulse. -/
def PadPhase.afterLoadLow : PadPhase → PadPhase
  | .unloaded => .unloaded
  | .loading => .settling 0
  | .settling n => .settling n
  | .showing n => .showing n
  | .pulsing n => .pulsing n

/-- CLK driven high begins a pulse; before bit `n` is valid it breaks the contract. -/
def PadPhase.afterClkHigh : PadPhase → PadPhase
  | .unloaded => .unloaded
  | .loading => .loading
  | .settling _ => .unloaded
  | .showing n => .pulsing n
  | .pulsing n => .pulsing n

/-- CLK driven low completes a pulse, and the next bit comes (R130). -/
def PadPhase.afterClkLow : PadPhase → PadPhase
  | .unloaded => .unloaded
  | .loading => .loading
  | .settling n => .settling n
  | .showing n => .showing n
  | .pulsing n => .settling (n + 1)

/-- What one event does to the phase. -/
def padStep (a : PadPhase) : LineEvent → PadPhase
  | .wr .load .high => .loading
  | .wr .load .low => a.afterLoadLow
  | .wr .clk .high => a.afterClkHigh
  | .wr .clk .low => a.afterClkLow
  | .wr .up _ => a
  | .wr .down _ => a
  | .wr .left _ => a
  | .wr .right _ => a
  | .wr .data _ => a
  | .rd _ _ => a
  | .dir _ _ => a
  | .dly _ => a.afterDelay

/-- The phase after a history. -/
def padPhase (h : List LineEvent) : PadPhase := h.foldl padStep .unloaded

/-- The bit on DATA in a phase, none where R130 commits to nothing: before a load pulse, while LOAD is high, before the settle
delay or the clock low time is over, while CLK is high, and after bit 7. -/
def padData (b : RawBits) : PadPhase → Option Level
  | .unloaded => none
  | .loading => none
  | .settling _ => none
  | .showing n => (RawBits.get b n).map activeLow
  | .pulsing _ => none

/-- The level the reference controller shows on a line after history `h`, INIT having run; none where R130 commits to
nothing. -/
def padLevelInited (p : Pad) (h : List LineEvent) : Line → Option Level
  | .up => some (activeLow p.up)
  | .down => some (activeLow p.down)
  | .left => some (activeLow p.left)
  | .right => some (activeLow p.right)
  | .data => padData p.latched (padPhase h)
  | .load => none
  | .clk => none

/-- The level the reference controller shows on a line after history `h`, where `inited` is the ghost `Inited` (R29): before
INIT nothing is committed to on any line (R130, R131). -/
def padLevel (p : Pad) (inited : Bool) (h : List LineEvent) (l : Line) : Option Level :=
  if inited then padLevelInited p h l else none

/-- Every sample among `evs`, events that follow history `h`, is what the reference controller shows at that point, where it
commits to a level. `Inited` changes in no READ, so one value serves for all of them. -/
def padAgrees (p : Pad) (inited : Bool) : List LineEvent → List LineEvent → Prop
  | _, [] => True
  | h, .rd l v :: rest => (∀ w, padLevel p inited h l = some w → v = w) ∧ padAgrees p inited (h ++ [.rd l v]) rest
  | h, .wr l v :: rest => padAgrees p inited (h ++ [.wr l v]) rest
  | h, .dir l d :: rest => padAgrees p inited (h ++ [.dir l d]) rest
  | h, .dly t :: rest => padAgrees p inited (h ++ [.dly t]) rest

/-- The twelve answers the reference controller gives to one READ (R130), as a list for `State.pins`. -/
def padAnswers (p : Pad) : List Level :=
  [ activeLow p.up, activeLow p.down, activeLow p.left, activeLow p.right, activeLow p.latched.b0, activeLow p.latched.b1,
    activeLow p.latched.b2, activeLow p.latched.b3, activeLow p.latched.b4, activeLow p.latched.b5, activeLow p.latched.b6,
    activeLow p.latched.b7 ]

/-- The report of what is pressed: Down over Up, Right over Left (R117), buttons in wire order (R83). -/
def Pad.report (p : Pad) : Report :=
  encodeReport
    { x := if p.right then 0xFF#8 else if p.left then 0x00#8 else 0x80#8
      y := if p.down then 0xFF#8 else if p.up then 0x00#8 else 0x80#8
      blue := p.latched.b0
      red := p.latched.b1
      yellow := p.latched.b2
      green := p.latched.b3
      r := p.latched.b4
      l := p.latched.b5
      start := p.latched.b6
      extra := p.latched.b7 }

end Sys2Proof.Machine
end

