-- ==== Sys2Proof/Safety.lean ====
section
/-! DEFINITION. What counts as a safe run, and the invariants the spec gives the block, in the terms the statements use. -/

namespace Sys2Proof

open Sys2Proof.Machine

/-- The machine runs on for ever from `s`: no number of steps meets a fault or a refusal (R189, R200). -/
def RunsOn (s : State) : Prop := ∀ k, ∃ t, Host.Core.run Sys2Proof.core k s = .next t

/-- An axis code (R85): 0x00, 0x80 or 0xFF. -/
abbrev AxisCode (b : Byte) : Prop := b = 0x00#8 ∨ b = 0x80#8 ∨ b = 0xFF#8

/-- Both axis bytes of a report are axis codes (R37). -/
abbrev AxesOk (r : Report) : Prop := AxisCode r.xAxis ∧ AxisCode r.yAxis

/-- R37, invariant 1, with R30 for `X` and `Y`: axis bytes are always axis codes. -/
def AxesInv (s : State) : Prop :=
  AxesOk s.lastRead ∧ AxesOk s.lastReported ∧ AxisCode s.reader.x ∧ AxisCode s.reader.y

/-- `CLK` is an output exactly from S9 to S17 (R27): when the next step is one of S10 to S17. -/
def clkOutAt : Seq → Bool
  | .idle => false
  | .s0 => false
  | .s1 => false
  | .s2 => false
  | .s3 => false
  | .s4 => false
  | .s5 => false
  | .s6 => false
  | .s7 => false
  | .s8 => false
  | .s9 => false
  | .s10 => true
  | .s11 => true
  | .s12 => true
  | .s13 => true
  | .s14 => true
  | .s15 => true
  | .s16 => true
  | .s17 => true
  | .s18 => false

/-- `LOAD` is high from S5 to S7 (R118): when the next step is S6 or S7. -/
def loadHighAt (q : Seq) : Bool := q == .s6 || q == .s7

/-- The clock latch is high from S12 to S14 (R122): when the next step is S13 or S14. -/
def clkHighAt (q : Seq) : Bool := q == .s13 || q == .s14

/-- The line registers at a sequence position, once INIT has run (R25 to R28). -/
def linesAt (q : Seq) : Lines where
  loadLvl := if loadHighAt q then .high else .low
  clkLvl := if clkHighAt q then .high else .low
  clkDir := if clkOutAt q then .output else .input
  upDir := .input
  downDir := .input
  leftDir := .input
  rightDir := .input
  dataDir := .input
  loadDir := .output

/-- After INIT the line registers are a function of the sequence position alone (R25 to R28, R189, R239). -/
def LinesInv (s : State) : Prop := s.inited = true → s.lines = linesAt s.reader.seq

/-- The loop index and the sequence position agree (R120, R123): below 8 in the loop body, 8 after it. -/
def IndexInv (s : State) : Prop :=
  (s.reader.seq ∈ [Seq.s11, .s12, .s13, .s14, .s15, .s16] → s.reader.i.val < 8) ∧
  (s.reader.seq ∈ [Seq.s17, .s18] → s.reader.i.val = 8)

/-- The caller's buffers keep their canonical form. -/
abbrev BuffersInv (s : State) : Prop := Memory.wf s.mem = true

/-- The least delay that may follow a line event (R67). -/
def minAfter : LineEvent → Nat
  | .wr .load .high => Config.tLoadMin
  | .wr .load .low => Config.tSettleMin
  | .wr .clk .high => Config.tClkHMin
  | .wr .clk .low => Config.tClkLMin
  | .wr .up _ => 0
  | .wr .down _ => 0
  | .wr .left _ => 0
  | .wr .right _ => 0
  | .wr .data _ => 0
  | .rd _ _ => 0
  | .dir _ _ => 0
  | .dly _ => 0

/-- Where `b` is a delay, it is at least what `a` before it asks for. -/
def delayOkAfter (a b : LineEvent) : Prop := ∀ t, b = .dly t → minAfter a ≤ t

/-- No delay of the history undercuts its minimum (R236); at S8 the event before is LOAD going low, whose minimum is the
smaller one. -/
def DelaysInv (s : State) : Prop :=
  s.history.IsChain delayOkAfter ∧ (s.reader.seq = .s8 → s.history.getLast? = some (.wr .load .low))

/-- `v` is the level the environment answers the next PinRead with, where it has listed one (R55). -/
def AnswersNext (s : State) (v : Level) : Prop := ∀ w rest, s.pins = w :: rest → v = w

/-- The kinds of line events (R71), to count them. -/
def isRd : LineEvent → Bool
  | .rd _ _ => true
  | .wr _ _ => false
  | .dir _ _ => false
  | .dly _ => false

/-- A `Wr` record. -/
def isWr : LineEvent → Bool
  | .rd _ _ => false
  | .wr _ _ => true
  | .dir _ _ => false
  | .dly _ => false

/-- A `Dir` record. -/
def isDir : LineEvent → Bool
  | .rd _ _ => false
  | .wr _ _ => false
  | .dir _ _ => true
  | .dly _ => false

/-- A `Dly` record. -/
def isDly : LineEvent → Bool
  | .rd _ _ => false
  | .wr _ _ => false
  | .dir _ _ => false
  | .dly _ => true

end Sys2Proof
end

