-- ==== Sys2Proof/Certificates/Slice0/Obligations.lean ====
section
/-! DEFINITION. The statements for the provers. -/

open Sys2Proof Sys2Proof.Machine

/-! ## Encoding -/

/-- The decoder reads an instruction off a byte sequence exactly when the sequence begins with that instruction's encoding
(R86, R93; the byte values are the spec's decision D1). -/
def Obligations.DecodeReadsExactlyTheEncoding : Prop :=
  ∀ (bytes rest : List Byte) (i : Instr), decode bytes = .ok (i, rest) ↔ bytes = encode i ++ rest

/-- The decoder and the table of R86 select the same operation: a byte decodes to an instruction exactly when that
instruction's row, and no other row, has `C & mask = match`; and E is bit 3 of a BUILDREPORT byte. -/
def Obligations.DecoderAgreesWithOperationTable : Prop :=
  (∀ (c : Byte) (i : Instr), decodeByte c = .ok i →
    (opTable.filter fun r => r.selects c).map OpRow.mnemonic = [i.mnemonic]) ∧
  (∀ (c : Byte) (d : DecodeError), decodeByte c = .error d → (opTable.filter fun r => r.selects c) = []) ∧
  (∀ (c : Byte) (e : Bool), decodeByte c = .ok (.buildreport e) → e = c.getLsbD 3)

/-- The reserved bytes (R90): exactly those with `Z != 0`, or `OP = 7`, or `E = 1` with `OP != 3`; 248 of the 256. -/
def Obligations.ReservedBytesAreThoseOfTheRule : Prop :=
  (∀ c : Byte, (∃ d, decodeByte c = .error d) ↔
    (c.toNat / 16 ≠ 0 ∨ c.toNat % 8 = 7 ∨ (c.toNat / 8 % 2 = 1 ∧ c.toNat % 8 ≠ 3))) ∧
  ((List.range 256).filter fun n => (decodeTableWord 8 n).isNone).length = 248

/-- The command bytes of 95_test_vectors.md section 2.8, written out bit by bit, decode to their instructions. -/
def Obligations.WrittenOutBytesDecodeToTheirInstructions : Prop :=
  decode [0b00000000#8] = .ok (.init, []) ∧ decode [0b00000001#8] = .ok (.update, []) ∧
  decode [0b00000010#8] = .ok (.changed, []) ∧ decode [0b00000011#8] = .ok (.buildreport false, []) ∧
  decode [0b00001011#8] = .ok (.buildreport true, []) ∧ decode [0b00000100#8] = .ok (.getReportsize, []) ∧
  decode [0b00000101#8] = .ok (.getDescsize, []) ∧ decode [0b00000110#8] = .ok (.getDesc, [])

/-! ## The step -/

/-- When the block is idle and the byte of the oldest pending command decodes to `i`, the step is `exec i`, with that command
taken from the list and the buffer reference beside it handed over (R69, R86, R87, R186; log 2). -/
def Obligations.StepRunsTheDecodedCommand : Prop :=
  ∀ (s : State) (c : Command) (rest : List Command) (i : Instr),
    s.reader.seq = .idle → s.pending = c :: rest → decode [c.byte] = .ok (i, []) →
    step s = exec i { s with pending := rest, outRef := c.out }

/-- A reserved command byte is rejected with `E_RESERVED`: the command and the reference beside it are taken, the host gets
the status, and nothing else changes (R90, R203, R204; the spec's decisions D1 and D12). -/
def Obligations.ReservedCommandIsRejectedAndChangesNothing : Prop :=
  ∀ (s : State) (c : Command) (rest : List Command) (d : DecodeError),
    s.reader.seq = .idle → s.pending = c :: rest → decode [c.byte] = .error d →
    step s = .next { s with
      pending := rest, outRef := c.out, replies := s.replies ++ [{ status := .reserved, value := .unit }] }

/-- With no command pending an idle block does nothing (R40, R215; log 2). -/
def Obligations.IdleBlockWithoutCommandsDoesNothing : Prop :=
  ∀ s : State, s.reader.seq = .idle → s.pending = [] → step s = .next s

/-! ## INIT -/

/-- INIT's whole effect (R181, R182; its contents are the spec's decision D8, log 15; `inited` is the ghost of D23): the lines
configured, nine line events in order, the interrupt-enable state as before and no saved copy held. Everything else, Cold and
both buffers among it, is unchanged. -/
def Obligations.InitConfiguresLinesAndRestoresInterrupts : Prop :=
  ∀ s : State, exec .init s = .next { s with
    lines :=
      { loadLvl := .low, clkLvl := .low, clkDir := .input, upDir := .input, downDir := .input, leftDir := .input,
        rightDir := .input, dataDir := .input, loadDir := .output }
    inited := true
    irq := { enabled := s.irq.enabled, saved := none }
    history := s.history ++
      [.dir .up .input, .dir .down .input, .dir .left .input, .dir .right .input, .dir .data .input, .wr .load .low,
        .dir .load .output, .wr .clk .low, .dir .clk .input]
    replies := s.replies ++ [{ status := .none, value := .unit }] }

/-- The critical section of INIT (R68, R181, R241), over the states INIT goes through (`initSteps k s`, after k of its twelve
steps; `exec` runs all twelve): the first step masks interrupts and saves the prior state, with no line event; from each of the
nine states in which the next step is a line event, and after the last of them, interrupts are masked and the prior state is
held; each of the nine steps issues one event, in the order of the spec's decision D8 (log 15); the step after them puts the
prior state back, and no line event follows. -/
def Obligations.InitMasksInterruptsOverItsLineEvents : Prop :=
  ∀ s : State,
    initSteps 0 s = s ∧ exec .init s = .next (complete .unit (initSteps 12 s)) ∧
    (initSteps 1 s).history = s.history ∧ (initSteps 1 s).lines = s.lines ∧
    (∀ k, 1 ≤ k → k ≤ 10 → (initSteps k s).irq = { enabled := false, saved := some s.irq.enabled }) ∧
    (∀ k e, ([.dir .up .input, .dir .down .input, .dir .left .input, .dir .right .input, .dir .data .input, .wr .load .low,
        .dir .load .output, .wr .clk .low, .dir .clk .input] : List LineEvent)[k]? = some e →
      (initSteps (k + 2) s).history = (initSteps (k + 1) s).history ++ [e]) ∧
    (∀ k, 11 ≤ k → k ≤ 12 → (initSteps k s).irq = { enabled := s.irq.enabled, saved := none } ∧
      (initSteps k s).history = (initSteps 10 s).history ∧ (initSteps k s).lines = (initSteps 10 s).lines)

/-! ## UPDATE -/

/-- UPDATE's whole effect (R110, R126, R128, R183): for some twelve samples and eighteen delays, each delay at least its
minimum, LastRead becomes the encoding of READ's result, the 50 records of the READ join the history, LOAD and CLK are left
low and CLK an input, `seq` Idle. READ's working registers (X, Y, RAW, I) are left at some value; everything else is
unchanged. -/
def Obligations.UpdateReadsEncodesAndStores : Prop :=
  ∀ s : State, ∃ (r : ReadRun) (left : Reader), r.meetsMinimums ∧ left.seq = .idle ∧
    exec .update s = .next { s with
      lastRead := encodeReport r.result
      lines := { s.lines with loadLvl := .low, clkLvl := .low, clkDir := .input }
      reader := left
      history := s.history ++ r.trace
      pins := s.pins.drop 12
      draws := s.draws.drop 18
      replies := s.replies ++ [{ status := .none, value := .unit }] }

/-- READ then ENCODE in one formula (R126, R144; the X values are the spec's decision D4, log 13): for all 4096 combinations of
the twelve samples, the report UPDATE stores. -/
def Obligations.UpdateReportFollowsTheTwelveSamples : Prop :=
  ∀ (s : State) (su sd sl sr b0 b1 b2 b3 b4 b5 b6 b7 : Level) (rest : List Level),
    s.pins = [su, sd, sl, sr, b0, b1, b2, b3, b4, b5, b6, b7] ++ rest →
    ∃ t, exec .update s = .next t ∧
      t.lastRead.xAxis = (if sr = .low then 0xFF#8 else if sl = .low then 0x00#8 else 0x80#8) ∧
      t.lastRead.yAxis = (if sd = .low then 0xFF#8 else if su = .low then 0x00#8 else 0x80#8) ∧
      t.lastRead.buttons.getLsbD 0 = decide (b1 = .low) ∧ t.lastRead.buttons.getLsbD 1 = decide (b0 = .low) ∧
      t.lastRead.buttons.getLsbD 2 = decide (b3 = .low) ∧ t.lastRead.buttons.getLsbD 3 = decide (b2 = .low) ∧
      t.lastRead.buttons.getLsbD 4 = decide (b6 = .low) ∧ t.lastRead.buttons.getLsbD 5 = decide (b5 = .low) ∧
      t.lastRead.buttons.getLsbD 6 = decide (b4 = .low) ∧ t.lastRead.buttons.getLsbD 7 = decide (b7 = .low) ∧
      t.pins = rest

/-- Time of one READ (R129): its records' blocking time, the sum of their delays, is at least 5200; sample i is taken at least
400 + 600 i after LOAD was raised. That LOAD is record 5 and sample i record 10 + 5 i of the READ is R128's numbering, which
rests on the directions being read first (the spec's decision D5, log 14). -/
def Obligations.UpdateBlocksAtLeastItsMinimumTime : Prop :=
  ∀ s t : State, exec .update s = .next t →
    ∃ evs, t.history = s.history ++ evs ∧ (evs.filter isDly).length = 18 ∧ 5200 ≤ blockingTime evs ∧
      evs[4]? = some (.wr .load .high) ∧
      ∀ i, i < 8 → (∃ v, evs[9 + 5 * i]? = some (.rd .data v)) ∧
        400 + 600 * i ≤ blockingTime ((evs.take (9 + 5 * i)).drop 4)

/-- The counts of the trace (R62, R127, R128): 50 records, 12 Rd, 18 Wr of which 2 on LOAD and 16 on CLK, 2 Dir, 18 Dly. -/
def Obligations.UpdateIssuesFiftyLineEvents : Prop :=
  ∀ s t : State, exec .update s = .next t →
    ∃ evs, t.history = s.history ++ evs ∧ evs.length = 50 ∧ (evs.filter isRd).length = 12 ∧
      (evs.filter isWr).length = 18 ∧ (evs.filter isDir).length = 2 ∧ (evs.filter isDly).length = 18 ∧
      evs.countP (fun e => e == .wr .load .high) = 1 ∧ evs.countP (fun e => e == .wr .load .low) = 1 ∧
      evs.countP (fun e => e == .wr .clk .high) = 8 ∧ evs.countP (fun e => e == .wr .clk .low) = 8

/-- Nothing but the twelve samples influences the report (R126): two states that list the same twelve samples get the same
LastRead from UPDATE, whatever their delays, buffers, Cold, lines and histories. -/
def Obligations.UpdateReportDependsOnTheSamplesAlone : Prop :=
  ∀ s s' t t' : State, 12 ≤ s.pins.length → s.pins.take 12 = s'.pins.take 12 →
    exec .update s = .next t → exec .update s' = .next t' → t.lastRead = t'.lastRead

/-- What the controller sees of an UPDATE does not depend on any level read (R193): two states that list the same
eighteen delay draws issue the same Wr, Dir and Dly records in the same order. -/
def Obligations.ControllerViewDoesNotDependOnLevelsRead : Prop :=
  ∀ (s s' t t' : State) (evs evs' : List LineEvent), 18 ≤ s.draws.length → s.draws.take 18 = s'.draws.take 18 →
    exec .update s = .next t → exec .update s' = .next t' →
    t.history = s.history ++ evs → t'.history = s'.history ++ evs' → controllerView evs = controllerView evs'

/-- The step sequence and the operation agree (R31, R111, R183): 61 steps of the machine from S0 do what UPDATE does. -/
def Obligations.SequenceStepsRunTheWholeUpdate : Prop :=
  ∀ s : State, Host.Core.run Sys2Proof.core 61 { s with reader := { s.reader with seq := .s0 } } = exec .update s

/-- The reports UPDATE can give (R145): every report with axis codes for axes, 3 times 3 times 256 of them, and no other. -/
def Obligations.UpdateGivesExactlyTheAxisCodeReports : Prop :=
  ∀ r : Report, (∃ s t : State, exec .update s = .next t ∧ t.lastRead = r) ↔ AxesOk r

/-- With the reference controller of R130 (an assumption about the environment, log 21) the report is what is pressed: if INIT
has run and every sample of an UPDATE is what that controller shows after the events so far, LastRead is the report of the
pressed set. -/
def Obligations.ReferenceControllerReportIsWhatIsPressed : Prop :=
  ∀ (s t : State) (p : Pad) (evs : List LineEvent), s.inited = true → exec .update s = .next t →
    t.history = s.history ++ evs → padAgrees p s.inited s.history evs → t.lastRead = p.report

/-- The reference controller commits to each of the twelve samples of an UPDATE after INIT, and what it shows there are its twelve
answers (R130, R237: bit i after i complete pulses, bit 0 with none): if the environment lists them, each `Rd` record of the
UPDATE holds the level it shows after the events before that record. Before INIT it commits to no level at all. -/
def Obligations.ReferenceControllerAnswersAgreeAlongTheRead : Prop :=
  (∀ (s : State) (p : Pad) (rest : List Level), s.inited = true → s.pins = padAnswers p ++ rest →
    ∃ t evs, exec .update s = .next t ∧ t.history = s.history ++ evs ∧ (evs.filter isRd).length = 12 ∧
      ∀ k l v, evs[k]? = some (.rd l v) → padLevel p s.inited (s.history ++ evs.take k) l = some v) ∧
  (∀ (s : State) (p : Pad) (h : List LineEvent) (l : Line), s.inited = false → padLevel p s.inited h l = none)

/-! ## The steps of READ -/

/-- S0 (R112): both axes start centred. -/
def Obligations.SamplerStartsBothAxesCentred : Prop :=
  ∀ s : State, s.reader.seq = .s0 →
    step s = .next { s with reader := { s.reader with x := 0x80#8, y := 0x80#8, seq := .s1 } }

/-- S1 and S2 (R113, R114): Up low writes 0x00 to Y, Down low writes 0xFF whatever Y held; a high level writes nothing. The
sample is the environment's, the event is recorded, nothing else changes. -/
def Obligations.SamplerUpAndDownOverwriteY : Prop :=
  (∀ s : State, s.reader.seq = .s1 → ∃ su, AnswersNext s su ∧ step s = .next { s with
    reader := { s.reader with y := if su = .low then 0x00#8 else s.reader.y, seq := .s2 }
    history := s.history ++ [.rd .up su], pins := s.pins.tail }) ∧
  (∀ s : State, s.reader.seq = .s2 → ∃ sd, AnswersNext s sd ∧ step s = .next { s with
    reader := { s.reader with y := if sd = .low then 0xFF#8 else s.reader.y, seq := .s3 }
    history := s.history ++ [.rd .down sd], pins := s.pins.tail })

/-- S3 and S4 (R115, R116): Left and Right on X; the two values are the spec's decision D4 (log 13). -/
def Obligations.SamplerLeftAndRightOverwriteX : Prop :=
  (∀ s : State, s.reader.seq = .s3 → ∃ sl, AnswersNext s sl ∧ step s = .next { s with
    reader := { s.reader with x := if sl = .low then 0x00#8 else s.reader.x, seq := .s4 }
    history := s.history ++ [.rd .left sl], pins := s.pins.tail }) ∧
  (∀ s : State, s.reader.seq = .s4 → ∃ sr, AnswersNext s sr ∧ step s = .next { s with
    reader := { s.reader with x := if sr = .low then 0xFF#8 else s.reader.x, seq := .s5 }
    history := s.history ++ [.rd .right sr], pins := s.pins.tail })

/-- S5 to S8 (R118): LOAD high, at least 300 us, LOAD low, at least 100 us; LOAD is high after S5 and S6; the clock line's
direction is not touched in any of the four steps. -/
def Obligations.LoadPulseAndSettleDelay : Prop :=
  ∀ s : State, s.reader.seq = .s5 → ∃ tLoad tSettle, 300 ≤ tLoad ∧ 100 ≤ tSettle ∧
    Host.Core.run Sys2Proof.core 1 s = .next { s with
      lines := { s.lines with loadLvl := .high }, reader := { s.reader with seq := .s6 }
      history := s.history ++ [.wr .load .high] } ∧
    Host.Core.run Sys2Proof.core 2 s = .next { s with
      lines := { s.lines with loadLvl := .high }, reader := { s.reader with seq := .s7 }
      history := s.history ++ [.wr .load .high, .dly tLoad], draws := s.draws.tail } ∧
    Host.Core.run Sys2Proof.core 3 s = .next { s with
      lines := { s.lines with loadLvl := .low }, reader := { s.reader with seq := .s8 }
      history := s.history ++ [.wr .load .high, .dly tLoad, .wr .load .low], draws := s.draws.tail } ∧
    Host.Core.run Sys2Proof.core 4 s = .next { s with
      lines := { s.lines with loadLvl := .low }, reader := { s.reader with seq := .s9 }
      history := s.history ++ [.wr .load .high, .dly tLoad, .wr .load .low, .dly tSettle], draws := s.draws.drop 2 }

/-- One iteration of the loop (R121, R122): the sample is taken first and recorded as bit I, low as pressed; then CLK high for
at least 300 us, then low for at least 300 us. In the last iteration (I = 7) as in every other. -/
def Obligations.EachIterationSamplesThenPulsesTheClock : Prop :=
  ∀ s : State, s.reader.seq = .s11 → s.reader.i.val < 8 → ∃ (sb : Level) (tHigh tLow : Nat) (raw : RawBits),
    AnswersNext s sb ∧ 300 ≤ tHigh ∧ 300 ≤ tLow ∧
    (∀ k, RawBits.get raw k = if k = s.reader.i.val then some (decide (sb = .low)) else RawBits.get s.reader.raw k) ∧
    Host.Core.run Sys2Proof.core 5 s = .next { s with
      lines := { s.lines with clkLvl := .low }
      reader := { s.reader with raw := raw, seq := .s16 }
      history := s.history ++ [.rd .data sb, .wr .clk .high, .dly tHigh, .wr .clk .low, .dly tLow]
      pins := s.pins.tail
      draws := s.draws.drop 2 }

/-- S16 (R123): the index goes up by one, and the loop runs again while it is below 8. -/
def Obligations.LoopControlCountsToEight : Prop :=
  ∀ s : State, s.reader.seq = .s16 → s.reader.i.val < 8 → ∃ j : Fin 9, j.val = s.reader.i.val + 1 ∧
    step s = .next { s with reader := { s.reader with i := j, seq := if j.val < 8 then .s11 else .s17 } }

/-- S17 (R124): the clock is released to an input; its latch and everything else stay. -/
def Obligations.ClockIsReleasedAfterTheLoop : Prop :=
  ∀ s : State, s.reader.seq = .s17 → step s = .next { s with
    lines := { s.lines with clkDir := .input }, reader := { s.reader with seq := .s18 }
    history := s.history ++ [.dir .clk .input] }

/-- S9 and S10 (R119, R120): the clock line becomes an output driven to its latch; once INIT has run, with the line registers as
their sequence position gives them (`LinesInv`, kept by every step), that level is low (the spec's decision D9, log 19); the
loop starts at index 0 with no bit recorded. -/
def Obligations.ClockIsDrivenAndTheLoopEntered : Prop :=
  ∀ s : State, s.reader.seq = .s9 →
    Host.Core.run Sys2Proof.core 2 s = .next { s with
      lines := { s.lines with clkDir := .output }
      reader := { s.reader with i := 0, raw := ⟨false, false, false, false, false, false, false, false⟩, seq := .s11 }
      history := s.history ++ [.dir .clk .output] } ∧
    Lines.driven .clk { s.lines with clkDir := .output } = some s.lines.clkLvl ∧
    (s.inited = true → LinesInv s → Lines.driven .clk { s.lines with clkDir := .output } = some .low)

/-- S18 ends the UPDATE: axes from X and Y, each button from its raw bit in the fixed order (R125), `seq` Idle. That the encoding
is stored and the host answered in this same step is R183, which the spec marks as derived, and the model's grain (log 1). -/
def Obligations.ReadResultNamesTheRawBitsInOrder : Prop :=
  ∀ s : State, s.reader.seq = .s18 →
    step s = .next { s with
      reader := { s.reader with seq := .idle }
      lastRead := encodeReport
        { x := s.reader.x, y := s.reader.y, blue := s.reader.raw.b0, red := s.reader.raw.b1, yellow := s.reader.raw.b2,
          green := s.reader.raw.b3, r := s.reader.raw.b4, l := s.reader.raw.b5, start := s.reader.raw.b6,
          extra := s.reader.raw.b7 }
      replies := s.replies ++ [{ status := .none, value := .unit }] }

/-! ## ENCODE -/

/-- The button byte (R141): each button at its bit, the or of the eight terms is their sum, and it is a bijection between the
combinations of buttons and the bytes. Extra is bit 7. -/
def Obligations.ButtonByteIsABijectionInWireOrder : Prop :=
  (∀ c : Ctrl, (buttonByte c).getLsbD 0 = c.red ∧ (buttonByte c).getLsbD 1 = c.blue ∧ (buttonByte c).getLsbD 2 = c.green ∧
    (buttonByte c).getLsbD 3 = c.yellow ∧ (buttonByte c).getLsbD 4 = c.start ∧ (buttonByte c).getLsbD 5 = c.l ∧
    (buttonByte c).getLsbD 6 = c.r ∧ (buttonByte c).getLsbD 7 = c.extra ∧
    (buttonByte c).toNat = 1 * c.red.toNat + 2 * c.blue.toNat + 4 * c.green.toNat + 8 * c.yellow.toNat +
      16 * c.start.toNat + 32 * c.l.toNat + 64 * c.r.toNat + 128 * c.extra.toNat) ∧
  (∀ (x y b : Byte), ∃! c : Ctrl, c.x = x ∧ c.y = y ∧ buttonByte c = b)

/-- ENCODE copies the axes unchanged, whatever they are, and its button byte does not depend on them (R140, R142). -/
def Obligations.EncodeCopiesAnyAxisByte : Prop :=
  ∀ (c : Ctrl) (x y : Byte), (encodeReport { c with x := x, y := y }).xAxis = x ∧
    (encodeReport { c with x := x, y := y }).yAxis = y ∧
    (encodeReport { c with x := x, y := y }).buttons = (encodeReport c).buttons

/-- The remap from raw to wire order (R84): wire bit n comes from the raw bit of the rule's table, which is its own inverse. -/
def Obligations.WireBitsAreTheRawBitsRemapped : Prop :=
  (∀ (r : Reader) (n : Nat), n < 8 →
    some ((encodeReport (readResult r)).buttons.getLsbD n) = RawBits.get r.raw ([1, 0, 3, 2, 6, 5, 4, 7].getD n 0)) ∧
  (∀ n, n < 8 → [1, 0, 3, 2, 6, 5, 4, 7].getD ([1, 0, 3, 2, 6, 5, 4, 7].getD n 0) 0 = n)

/-! ## CHANGED -/

/-- The first CHANGED (R151): true whatever the buffers hold, Cold cleared and nothing else changed but the reply; and a clear
Cold is never set again by any step. -/
def Obligations.FirstChangedAnswersTrueAndClearsColdForGood : Prop :=
  (∀ s : State, s.cold = true → exec .changed s = .next { s with
    cold := false, replies := s.replies ++ [{ status := .none, value := .bit 1#1 }] }) ∧
  (∀ s t : State, s.cold = false → step s = .next t → t.cold = false)

/-- Every later CHANGED (R152): true iff LastRead and LastReported differ in at least one of the three bytes; nothing changes
but the reply, so a second CHANGED answers the same. -/
def Obligations.LaterChangedComparesAllThreeBytes : Prop :=
  ∀ s : State, s.cold = false → exec .changed s = .next { s with
    replies := s.replies ++
      [{ status := .none, value := .bit (if s.lastRead.xAxis ≠ s.lastReported.xAxis ∨ s.lastRead.yAxis ≠ s.lastReported.yAxis ∨
        s.lastRead.buttons ≠ s.lastReported.buttons then 1#1 else 0#1) }] }

/-- The two-state reading of Cold (R24): `Uninitialized` is Cold, the only transition of any step is `Uninitialized` to
`Ready`, and it is taken by a CHANGED. -/
def Obligations.ColdStateLeavesUninitializedOnlyByChanged : Prop :=
  (∀ s : State, coldState s = .uninitialized ↔ s.cold = true) ∧ (∀ s : State, coldState s = .ready ↔ s.cold = false) ∧
  (∀ s t : State, step s = .next t → coldState t ≠ coldState s →
    coldState s = .uninitialized ∧ coldState t = .ready ∧
      ∃ c rest, s.pending = c :: rest ∧ decode [c.byte] = .ok (.changed, [])) ∧
  (∀ s t : State, coldState s = .uninitialized → exec .changed s = .next t → coldState t = .ready)

/-- Only CHANGED's effect depends on Cold (R23): for every other operation, changing Cold beforehand changes nothing in the
outcome but Cold itself. -/
def Obligations.OnlyChangedDependsOnCold : Prop :=
  ∀ (i : Instr) (s t : State) (b : Bool), i ≠ .changed → exec i s = .next t →
    exec i { s with cold := b } = .next { t with cold := b }

/-! ## BUILDREPORT -/

/-- `buildReport(None)` (R164): LastReported becomes LastRead and nothing else changes but the reply; no check is made. -/
def Obligations.BuildReportWithoutBufferOnlyCommits : Prop :=
  ∀ s : State, exec (.buildreport false) s = .next { s with
    lastReported := s.lastRead, replies := s.replies ++ [{ status := .none, value := .unit }] }

/-- BUILDREPORT with a buffer of at least 3 bytes (R160 to R162; the bytes past index 2 kept by R61 and D11): export into the
buffer handed over, then commit; nothing else changes but the reply, beside which the host finds the report in OUT (R188,
R193). -/
def Obligations.BuildReportExportsThenCommits : Prop :=
  ∀ (s : State) (b : Nat), s.outRef = some b → 3 ≤ (Memory.read s.mem b).length →
    exec (.buildreport true) s = .next { s with
      mem := Memory.write s.mem b
        ([s.lastRead.xAxis, s.lastRead.yAxis, s.lastRead.buttons] ++ (Memory.read s.mem b).drop 3)
      lastReported := s.lastRead
      replies := s.replies ++
        [{ status := .none, value := .unit, out := some [s.lastRead.xAxis, s.lastRead.yAxis, s.lastRead.buttons] }] }

/-- The bytes BUILDREPORT writes and those it does not (R161, R51): byte k of OUT is byte k of LastRead for k = 0, 1, 2; every
other byte of OUT, and every byte of every other buffer, reads as before, and no length changes. That buffers of other names
share no byte with OUT is the model's choice (log 7, DESIGN CHOICE, unsafe for a host whose buffers overlap). -/
def Obligations.ExportWritesThreeBytesOfOutAndNoOther : Prop :=
  ∀ (s t : State) (b : Nat), BuffersInv s → s.outRef = some b → 3 ≤ (Memory.read s.mem b).length →
    exec (.buildreport true) s = .next t →
    Memory.byteAt t.mem b 0 = some s.lastRead.xAxis ∧ Memory.byteAt t.mem b 1 = some s.lastRead.yAxis ∧
    Memory.byteAt t.mem b 2 = some s.lastRead.buttons ∧
    (∀ k, 3 ≤ k → Memory.byteAt t.mem b k = Memory.byteAt s.mem b k) ∧
    (∀ b' k, b' ≠ b → Memory.byteAt t.mem b' k = Memory.byteAt s.mem b' k) ∧
    (∀ b', (Memory.read t.mem b').length = (Memory.read s.mem b').length)

/-- Commit (R162): after any BUILDREPORT that was not rejected LastReported is LastRead, so a CHANGED issued next, if not the
first ever, answers false. -/
def Obligations.CommitMakesTheNextChangedFalse : Prop :=
  ∀ (e : Bool) (s : State), (e = true → 3 ≤ (outBytes s).length) →
    ∃ t, exec (.buildreport e) s = .next t ∧ t.lastReported = s.lastRead ∧ t.lastRead = s.lastRead ∧
      (s.cold = false → exec .changed t = .next { t with
        replies := t.replies ++ [{ status := .none, value := .bit 0#1 }] })

/-- An undersized buffer (R163, R202, R203; the spec's decisions D11 and D12): with a buffer shorter than 3 bytes, or none
beside the byte (log 16), BUILDREPORT is rejected with `E_BUFSIZE`; neither OUT nor LastReported nor anything else changes. -/
def Obligations.UndersizedBufferIsRejectedAndChangesNothing : Prop :=
  ∀ s : State, (s.outRef = none ∨ ∃ b, s.outRef = some b ∧ (Memory.read s.mem b).length < 3) →
    exec (.buildreport true) s = .next { s with replies := s.replies ++ [{ status := .bufSize, value := .unit }] }

/-! ## The attribute reads -/

/-- GET_REPORTSIZE (R171): 3, always; no state is read or written but for the reply. -/
def Obligations.ReportSizeReadAnswersThree : Prop :=
  ∀ s : State, exec .getReportsize s = .next { s with
    replies := s.replies ++ [{ status := .none, value := .int 3 }] }

/-- GET_DESC and GET_DESCSIZE (R172, R173, R175; the bytes are the parameter of the spec's decision D16, log 11): the one
constant byte sequence, at least one byte long, and its length; nothing else changes but the reply. -/
def Obligations.DescriptorReadsAnswerTheConstant : Prop :=
  1 ≤ Config.desc.length ∧
  (∀ s : State, exec .getDesc s = .next { s with
    replies := s.replies ++ [{ status := .none, value := .bytes Config.desc }] }) ∧
  (∀ s : State, exec .getDescsize s = .next { s with
    replies := s.replies ++ [{ status := .none, value := .int Config.desc.length }] })

/-- The layout the descriptor declares (R170, R92, R174): two 8-bit axes, seven one-bit buttons, one padding bit, 24 bits, the
3 bytes of a report; the block puts X, Y, Red, Blue, Green, Yellow, Start, L, R there, and Extra in the padding bit. -/
def Obligations.DeclaredLayoutIsTheReportsThreeBytes : Prop :=
  declaredBits declaredLayout = 8 * Config.reportSize ∧ declaredLayout.map DeclaredField.width = [8, 8, 1, 1, 1, 1, 1, 1, 1, 1] ∧
  ∀ c : Ctrl, declaredLayout.map (declaredValue (encodeReport c)) =
    [c.x.toNat, c.y.toNat, c.red.toNat, c.blue.toNat, c.green.toNat, c.yellow.toNat, c.start.toNat, c.l.toNat, c.r.toNat,
      c.extra.toNat]

/-! ## Reset -/

/-- Construction (R39, R230, R231; the buffers' value is the spec's decision D7): for every value of what the spec leaves
unspecified, Cold is true, both buffers hold RESET_BUF, no READ is in progress, INIT has not run, nothing was issued, answered
or recorded; and the model's reset state is that construction with RESET_BUF zero (logs 3 to 6 and 23). -/
def Obligations.ConstructionLeavesTheSpecsResetValues : Prop :=
  (∀ (buf : Report) (u : Unspecified),
    (State.construct buf u).cold = true ∧ (State.construct buf u).lastRead = buf ∧
    (State.construct buf u).lastReported = buf ∧ (State.construct buf u).reader.seq = .idle ∧
    (State.construct buf u).inited = false ∧ (State.construct buf u).lines = u.lines ∧ (State.construct buf u).mem = u.mem ∧
    (State.construct buf u).replies = [] ∧ (State.construct buf u).history = [] ∧ (State.construct buf u).pending = []) ∧
  ∃ u, State.reset = State.construct ⟨0x00#8, 0x00#8, 0x00#8⟩ u

/-! ## Invariants -/

/-- Axis bytes are always axis codes (R37, invariant 1; R30 for X and Y). -/
def Obligations.EveryStepKeepsAxisCodes : Prop :=
  ∀ s t : State, AxesInv s → step s = .next t → AxesInv t

/-- After INIT the line registers are those of the sequence position (R25 to R28, R118, R122, R124, R239). -/
def Obligations.EveryStepKeepsLinesAtTheirSequencePosition : Prop :=
  ∀ s t : State, LinesInv s → step s = .next t → LinesInv t

/-- The loop index is below 8 in the loop body and 8 after it (R120, R123). -/
def Obligations.EveryStepKeepsTheLoopIndex : Prop :=
  ∀ s t : State, IndexInv s → step s = .next t → IndexInv t

/-- No delay of the history undercuts the minimum the event before it asks for (R67, R236). -/
def Obligations.EveryStepKeepsDelaysAtTheirMinimum : Prop :=
  ∀ s t : State, DelaysInv s → step s = .next t → DelaysInv t

/-- The caller's buffers keep their canonical form (log 7). -/
def Obligations.EveryStepKeepsBuffersCanonical : Prop :=
  ∀ s t : State, BuffersInv s → step s = .next t → BuffersInv t

/-- The five invariants hold at reset (for the axes, with the spec's decision D7 and log 5). -/
def Obligations.ResetMeetsTheInvariants : Prop :=
  AxesInv State.reset ∧ LinesInv State.reset ∧ IndexInv State.reset ∧ DelaysInv State.reset ∧ BuffersInv State.reset

/-! ## The whole machine -/

/-- Nothing stops the block (R189, R200): from every state, any number of steps answers a next state. -/
def Obligations.EveryRunGoesOnForEver : Prop := ∀ s : State, RunsOn s

/-- No operation stops in the middle (R127, R187, R216). A step from an idle block leaves it idle: that is the model's grain,
which runs a command's whole operation in one step (log 1, DEDUCED). From a state inside a READ, whichever of S0 to S18 is next,
the machine is idle again after at most 61 steps and not before; by then the UPDATE has stored the encoding of what its READ
returned, and answered the host once. -/
def Obligations.OperationsRunToCompletion : Prop :=
  (∀ s t : State, s.reader.seq = .idle → step s = .next t → t.reader.seq = .idle) ∧
  (∀ s : State, s.reader.seq ≠ .idle → ∃ n t, 1 ≤ n ∧ n ≤ 61 ∧ Host.Core.run Sys2Proof.core n s = .next t ∧
    t.reader.seq = .idle ∧ t.lastRead = encodeReport (readResult t.reader) ∧
    t.replies = s.replies ++ [{ status := .none, value := .unit }] ∧
    ∀ k, k < n → ∃ u : State, Host.Core.run Sys2Proof.core k s = .next u ∧ u.reader.seq ≠ .idle)

/-- After INIT, between operations, LOAD is driven low and CLK is not driven (R189, R215). -/
def Obligations.LinesAreQuietBetweenOperations : Prop :=
  ∀ s t : State, LinesInv s → s.inited = true → s.reader.seq = .idle → step s = .next t →
    Lines.driven .load t.lines = some .low ∧ Lines.driven .clk t.lines = none

/-- The history only grows (R71): a step keeps every record and appends. -/
def Obligations.HistoryOnlyGrows : Prop :=
  ∀ s t : State, step s = .next t → ∃ evs, t.history = s.history ++ evs

/-- The access table (R38), as a frame over every operation: what is not in an operation's column is unchanged by it. -/
def Obligations.OperationsWriteOnlyTheirColumn : Prop :=
  ∀ (i : Instr) (s t : State), exec i s = .next t →
    t.pending = s.pending ∧ t.outRef = s.outRef ∧
    (i ≠ .update → t.lastRead = s.lastRead ∧ t.reader = s.reader ∧ t.pins = s.pins ∧ t.draws = s.draws) ∧
    (i ≠ .buildreport false → i ≠ .buildreport true → t.lastReported = s.lastReported) ∧
    (i ≠ .buildreport true → ∀ b k, Memory.byteAt t.mem b k = Memory.byteAt s.mem b k) ∧
    (i ≠ .changed → t.cold = s.cold) ∧
    (i ≠ .init → i ≠ .update → t.lines = s.lines ∧ t.history = s.history) ∧
    (i ≠ .init → t.inited = s.inited ∧ t.irq = s.irq)

/-- LastReported is only ever overwritten by a commit (R22): a step that changes it runs a BUILDREPORT and makes it the
LastRead, which stays. -/
def Obligations.LastReportedChangesOnlyByCommit : Prop :=
  ∀ s t : State, step s = .next t → t.lastReported ≠ s.lastReported →
    t.lastReported = s.lastRead ∧ t.lastRead = s.lastRead ∧
      ∃ c rest e, s.pending = c :: rest ∧ decode [c.byte] = .ok (.buildreport e, [])

/-- LastRead is only ever overwritten by UPDATE (R21, R184): a step that changes it runs an UPDATE or is the S18 of one. -/
def Obligations.LastReadChangesOnlyByUpdate : Prop :=
  ∀ s t : State, step s = .next t → t.lastRead ≠ s.lastRead →
    t.lastReported = s.lastReported ∧
      (s.reader.seq = .s18 ∨
        (s.reader.seq = .idle ∧ ∃ c rest, s.pending = c :: rest ∧ decode [c.byte] = .ok (.update, [])))

/-- POLL (R192): with a buffer of at least 3 bytes it completes, and then LastReported is LastRead and Cold is false; if it
found a change, bytes 0..2 of the buffer are the report, and if not, every buffer is as before. -/
def Obligations.PollCommitsAndExportsTheReport : Prop :=
  ∀ (s : State) (b : Nat), BuffersInv s → 3 ≤ (Memory.read s.mem b).length →
    ∃ t, poll b s = .next t ∧ t.lastReported = t.lastRead ∧ t.cold = false ∧
      ((t.replies = s.replies ++ [{ status := .none, value := .unit }, { status := .none, value := .bit 1#1 },
            { status := .none, value := .unit, out := some [t.lastRead.xAxis, t.lastRead.yAxis, t.lastRead.buttons] }] ∧
          (Memory.read t.mem b).take 3 = [t.lastRead.xAxis, t.lastRead.yAxis, t.lastRead.buttons]) ∨
        (t.replies = s.replies ++ [{ status := .none, value := .unit }, { status := .none, value := .bit 0#1 }] ∧
          s.cold = false ∧ t.mem = s.mem ∧ t.lastReported = s.lastReported))

/-- What the host sees (R193): over any number of steps from idle blocks, two runs with the same commands, the same two reports
and Cold, buffers of the same lengths and the same twelve answers for each command still pending show the host the same
results, statuses and exported bytes, whatever the delays, the lines, the histories, INIT and the buffers' contents. -/
def Obligations.HostSeesOnlyCommandsLengthsAndAnswers : Prop :=
  ∀ (k : Nat) (s s' t t' : State), s.reader.seq = .idle → s'.reader.seq = .idle → s.pending = s'.pending →
    hostView s = hostView s' → s.lastRead = s'.lastRead → s.lastReported = s'.lastReported → s.cold = s'.cold →
    (∀ b, (Memory.read s.mem b).length = (Memory.read s'.mem b).length) → 12 * s.pending.length ≤ s.pins.length →
    s.pins.take (12 * s.pending.length) = s'.pins.take (12 * s.pending.length) →
    Host.Core.run Sys2Proof.core k s = .next t → Host.Core.run Sys2Proof.core k s' = .next t' → hostView t = hostView t'

/-- What the controller sees (R193): over any number of steps from idle blocks, two runs with the same commands and the same
eighteen delay draws for each command still pending issue the same `Wr`, `Dir` and `Dly` records in the same order, whatever
the levels read, the reports, Cold and the buffers. -/
def Obligations.ControllerSeesOnlyCommandsAndDelays : Prop :=
  ∀ (k : Nat) (s s' t t' : State), s.reader.seq = .idle → s'.reader.seq = .idle → s.pending = s'.pending →
    controllerView s.history = controllerView s'.history → 18 * s.pending.length ≤ s.draws.length →
    s.draws.take (18 * s.pending.length) = s'.draws.take (18 * s.pending.length) →
    Host.Core.run Sys2Proof.core k s = .next t → Host.Core.run Sys2Proof.core k s' = .next t' →
    controllerView t.history = controllerView t'.history
end

