-- ==== Sys2Proof/Laws/Decode.lean ====
section
/-! SUPPORT. The decoder and the encoder, byte by byte. -/

namespace Sys2Proof

/-- Every instruction's fields are ones the rule of reserved bytes lets through (R90). -/
theorem instr_wellFormed (i : Instr) : i.wellFormed = true := by
  cases i with
  | buildreport e => cases e <;> rfl
  | _ => rfl

/-- Taking the fields of a byte apart and putting them together gives the byte (R86). -/
theorem byteOfFields_fieldsOfByte : ∀ c : Byte, byteOfFields (fieldsOfByte c) = c := by decide

/-- Putting fields together and taking them apart gives the fields. -/
theorem fieldsOfByte_byteOfFields : ∀ (z : BitVec 4) (e : BitVec 1) (op : BitVec 3),
    fieldsOfByte (byteOfFields ⟨z, e, op⟩) = ⟨z, e, op⟩ := by decide

/-- The decoder names an instruction exactly when the fields are that instruction's. -/
theorem instrOfFields_eq_ok : ∀ (z : BitVec 4) (e : BitVec 1) (op : BitVec 3) (i : Instr),
    instrOfFields ⟨z, e, op⟩ = .ok i → i.fields = ⟨z, e, op⟩ := by
  intro z e op i h
  have key : ∀ (z : BitVec 4) (e : BitVec 1) (op : BitVec 3),
      (match instrOfFields ⟨z, e, op⟩ with
        | .ok i => decide (i.fields = ⟨z, e, op⟩)
        | .error _ => true) = true := by decide
  have hk := key z e op
  rw [h] at hk
  exact of_decide_eq_true hk

theorem instrOfFields_fields (i : Instr) : instrOfFields i.fields = .ok i := by
  cases i with
  | buildreport e => cases e <;> rfl
  | _ => rfl

theorem decode_nil : decode [] = .error .noByte := rfl

theorem decode_cons (c : Byte) (rest : List Byte) : decode (c :: rest) = (decodeByte c).map fun i => (i, rest) := rfl

end Sys2Proof
end

