-- ==== Sys2Proof/Laws/Memory.lean ====
section
/-! SUPPORT. The caller's buffers: a read after a write, writes elsewhere, and the canonical form kept. -/

namespace Sys2Proof.Machine

theorem wfFrom_mono {m : Memory} : ∀ {lo hi : Nat}, lo ≤ hi → Memory.wfFrom hi m = true → Memory.wfFrom lo m = true := by
  cases m with
  | nil => intros; rfl
  | cons e rest =>
    intro lo hi hle h
    simp only [Memory.wfFrom, Bool.and_eq_true, decide_eq_true_eq] at h ⊢
    exact ⟨⟨by omega, h.1.2⟩, h.2⟩

/-- In a canonical list from `lo` on, a name below `lo` is unlisted. -/
theorem read_below {m : Memory} : ∀ {lo b : Nat}, Memory.wfFrom lo m = true → b < lo → Memory.read m b = [] := by
  induction m with
  | nil => intros; rfl
  | cons e rest ih =>
    intro lo b h hb
    simp only [Memory.wfFrom, Bool.and_eq_true, decide_eq_true_eq] at h
    simp only [Memory.read]
    rw [if_neg (by omega)]
    exact ih h.2 (by omega)

/-- Every write keeps the canonical form. -/
theorem wfFrom_write {m : Memory} (new : List Byte) :
    ∀ {lo b : Nat}, lo ≤ b → Memory.wfFrom lo m = true → Memory.wfFrom lo (Memory.write m b new) = true := by
  induction m with
  | nil =>
    intro lo b hb _
    cases new <;> simp [Memory.write, Memory.wfFrom, hb]
  | cons e rest ih =>
    intro lo b hb h
    obtain ⟨n, bytes⟩ := e
    have h' := h
    simp only [Memory.wfFrom, Bool.and_eq_true, decide_eq_true_eq] at h
    obtain ⟨⟨hn, hne⟩, hrest⟩ := h
    simp only [Memory.write]
    split
    · cases new with
      | nil => exact h'
      | cons a as =>
        simp only [List.isEmpty_cons, Memory.wfFrom, Bool.and_eq_true, decide_eq_true_eq, Bool.false_eq_true, if_false]
        exact ⟨⟨hb, rfl⟩, ⟨by omega, hne⟩, hrest⟩
    · split
      · cases new with
        | nil => exact wfFrom_mono (by omega) hrest
        | cons a as =>
          simp only [List.isEmpty_cons, Memory.wfFrom, Bool.and_eq_true, decide_eq_true_eq, Bool.false_eq_true, if_false]
          subst b
          exact ⟨⟨hb, rfl⟩, hrest⟩
      · simp only [Memory.wfFrom, Bool.and_eq_true, decide_eq_true_eq]
        exact ⟨⟨hn, hne⟩, ih (by omega) hrest⟩

theorem wf_write (m : Memory) (b : Nat) (new : List Byte) (h : Memory.wf m = true) :
    Memory.wf (Memory.write m b new) = true :=
  wfFrom_write new (Nat.zero_le b) h

/-- A read after a write gives what was written. -/
theorem read_write_same {m : Memory} (b : Nat) (new : List Byte) :
    ∀ {lo : Nat}, Memory.wfFrom lo m = true → Memory.read (Memory.write m b new) b = new := by
  induction m with
  | nil => intro _ _; cases new <;> simp [Memory.write, Memory.read]
  | cons e rest ih =>
    intro lo h
    obtain ⟨n, bytes⟩ := e
    have h' := h
    simp only [Memory.wfFrom, Bool.and_eq_true, decide_eq_true_eq] at h
    simp only [Memory.write]
    split
    · rename_i hlt
      cases new with
      | nil =>
        simp only [List.isEmpty_nil, if_true, Memory.read]
        rw [if_neg (by omega)]
        exact read_below h.2 (by omega)
      | cons a as => simp [Memory.read]
    · split
      · cases new with
        | nil =>
          simp only [List.isEmpty_nil, if_true]
          exact read_below h.2 (by omega)
        | cons a as => simp [Memory.read]
      · rename_i h1 h2
        simp only [Memory.read]
        rw [if_neg (fun hh => h2 hh.symm)]
        exact ih h.2

/-- A read after a write of at least one byte gives what was written, in any list. -/
theorem read_write_nonempty {m : Memory} {b : Nat} (new : List Byte) (hne : new ≠ []) :
    Memory.read (Memory.write m b new) b = new := by
  have he : new.isEmpty = false := by cases new <;> simp_all
  induction m with
  | nil => simp [Memory.write, Memory.read, he]
  | cons e rest ih =>
    obtain ⟨n, bytes⟩ := e
    simp only [Memory.write, he, Bool.false_eq_true, if_false]
    split
    · simp [Memory.read]
    · split
      · simp [Memory.read]
      · rename_i h1 h2
        rw [Memory.read, if_neg (fun hh => h2 hh.symm)]
        exact ih

/-- A write leaves every other buffer alone. -/
theorem read_write_other {m : Memory} {b c : Nat} (new : List Byte) (hne : c ≠ b) :
    Memory.read (Memory.write m b new) c = Memory.read m c := by
  have hne' : b ≠ c := fun hh => hne hh.symm
  induction m with
  | nil => cases new <;> simp [Memory.write, Memory.read, hne']
  | cons e rest ih =>
    obtain ⟨n, bytes⟩ := e
    simp only [Memory.write]
    split
    · cases new <;> simp [Memory.read, hne']
    · split
      · subst b
        cases new <;> simp [Memory.read, hne']
      · simp [Memory.read, ih]

/-- The same, byte by byte. -/
theorem byteAt_write_other {m : Memory} {b c : Nat} (new : List Byte) (k : Nat) (hne : c ≠ b) :
    Memory.byteAt (Memory.write m b new) c k = Memory.byteAt m c k := by
  simp [Memory.byteAt, read_write_other new hne]

@[simp] theorem toBytes_length (r : Report) : (Report.toBytes r).length = 3 := rfl

theorem overwriteHead_length (r : Report) (old : List Byte) (h : 3 ≤ old.length) :
    (overwriteHead r old).length = old.length := by
  simp [overwriteHead, Config.reportSize]; omega

/-- Bytes 0..2 of an exported buffer are the report's, in order. -/
theorem overwriteHead_head (r : Report) (old : List Byte) :
    (overwriteHead r old)[0]? = some r.xAxis ∧ (overwriteHead r old)[1]? = some r.yAxis ∧
      (overwriteHead r old)[2]? = some r.buttons :=
  ⟨rfl, rfl, rfl⟩

/-- The bytes of an exported buffer past index 2 are what they were. -/
theorem overwriteHead_tail (r : Report) (old : List Byte) (k : Nat) (hk : 3 ≤ k) :
    (overwriteHead r old)[k]? = old[k]? := by
  obtain ⟨j, rfl⟩ := Nat.exists_eq_add_of_le hk
  rw [Nat.add_comm]
  simp [overwriteHead, Report.toBytes, Config.reportSize, Nat.add_comm]

end Sys2Proof.Machine
end

