-- ==== Sys2Proof/Laws/PerInstr.lean ====
section
/-! SUPPORT. Statements about every instruction as syntax, one lemma per constructor. -/

namespace Sys2Proof.Laws.Encoded

/-- The instruction is well formed, encodes to one byte, and the operation table's row of its mnemonic, and no other, selects
that byte (R86, R93). -/
def Statement (i : Instr) : Prop :=
  i.wellFormed = true ∧ (encode i).length = 1 ∧
    (opTable.filter fun r => r.selects (encodeByte i)).map OpRow.mnemonic = [i.mnemonic]

theorem init : Statement .init := ⟨rfl, rfl, by decide⟩
theorem update : Statement .update := ⟨rfl, rfl, by decide⟩
theorem changed : Statement .changed := ⟨rfl, rfl, by decide⟩
theorem buildreport (e : Bool) : Statement (.buildreport e) :=
  ⟨instr_wellFormed _, rfl, by cases e <;> decide⟩
theorem getReportsize : Statement .getReportsize := ⟨rfl, rfl, by decide⟩
theorem getDescsize : Statement .getDescsize := ⟨rfl, rfl, by decide⟩
theorem getDesc : Statement .getDesc := ⟨rfl, rfl, by decide⟩

end Sys2Proof.Laws.Encoded
end

