-- ==== Sys2Proof/Laws/State.lean ====
section
/-! SUPPORT. One lemma per field per update of State, so that no later proof unfolds a record update. -/

namespace Sys2Proof.Machine

/-! ## pinRead -/

@[simp] theorem pinRead_lastRead (l : Line) (s : State) : (pinRead l s).lastRead = s.lastRead := rfl
@[simp] theorem pinRead_lastReported (l : Line) (s : State) : (pinRead l s).lastReported = s.lastReported := rfl
@[simp] theorem pinRead_cold (l : Line) (s : State) : (pinRead l s).cold = s.cold := rfl
@[simp] theorem pinRead_inited (l : Line) (s : State) : (pinRead l s).inited = s.inited := rfl
@[simp] theorem pinRead_lines (l : Line) (s : State) : (pinRead l s).lines = s.lines := rfl
@[simp] theorem pinRead_reader (l : Line) (s : State) : (pinRead l s).reader = s.reader := rfl
@[simp] theorem pinRead_irq (l : Line) (s : State) : (pinRead l s).irq = s.irq := rfl
@[simp] theorem pinRead_mem (l : Line) (s : State) : (pinRead l s).mem = s.mem := rfl
@[simp] theorem pinRead_pending (l : Line) (s : State) : (pinRead l s).pending = s.pending := rfl
@[simp] theorem pinRead_outRef (l : Line) (s : State) : (pinRead l s).outRef = s.outRef := rfl
@[simp] theorem pinRead_replies (l : Line) (s : State) : (pinRead l s).replies = s.replies := rfl
@[simp] theorem pinRead_history (l : Line) (s : State) : (pinRead l s).history = s.history ++ [.rd l (pinAnswer l s)] := rfl
@[simp] theorem pinRead_pins (l : Line) (s : State) : (pinRead l s).pins = s.pins.tail := rfl
@[simp] theorem pinRead_draws (l : Line) (s : State) : (pinRead l s).draws = s.draws := rfl

/-! ## pinWrite -/

@[simp] theorem pinWrite_lastRead (l : Line) (v : Level) (s : State) : (pinWrite l v s).lastRead = s.lastRead := rfl
@[simp] theorem pinWrite_lastReported (l : Line) (v : Level) (s : State) : (pinWrite l v s).lastReported = s.lastReported := rfl
@[simp] theorem pinWrite_cold (l : Line) (v : Level) (s : State) : (pinWrite l v s).cold = s.cold := rfl
@[simp] theorem pinWrite_inited (l : Line) (v : Level) (s : State) : (pinWrite l v s).inited = s.inited := rfl
@[simp] theorem pinWrite_lines (l : Line) (v : Level) (s : State) : (pinWrite l v s).lines = s.lines.setLatch l v := rfl
@[simp] theorem pinWrite_reader (l : Line) (v : Level) (s : State) : (pinWrite l v s).reader = s.reader := rfl
@[simp] theorem pinWrite_irq (l : Line) (v : Level) (s : State) : (pinWrite l v s).irq = s.irq := rfl
@[simp] theorem pinWrite_mem (l : Line) (v : Level) (s : State) : (pinWrite l v s).mem = s.mem := rfl
@[simp] theorem pinWrite_pending (l : Line) (v : Level) (s : State) : (pinWrite l v s).pending = s.pending := rfl
@[simp] theorem pinWrite_outRef (l : Line) (v : Level) (s : State) : (pinWrite l v s).outRef = s.outRef := rfl
@[simp] theorem pinWrite_replies (l : Line) (v : Level) (s : State) : (pinWrite l v s).replies = s.replies := rfl
@[simp] theorem pinWrite_history (l : Line) (v : Level) (s : State) : (pinWrite l v s).history = s.history ++ [.wr l v] := rfl
@[simp] theorem pinWrite_pins (l : Line) (v : Level) (s : State) : (pinWrite l v s).pins = s.pins := rfl
@[simp] theorem pinWrite_draws (l : Line) (v : Level) (s : State) : (pinWrite l v s).draws = s.draws := rfl

/-! ## pinDir -/

@[simp] theorem pinDir_lastRead (l : Line) (d : Dir) (s : State) : (pinDir l d s).lastRead = s.lastRead := rfl
@[simp] theorem pinDir_lastReported (l : Line) (d : Dir) (s : State) : (pinDir l d s).lastReported = s.lastReported := rfl
@[simp] theorem pinDir_cold (l : Line) (d : Dir) (s : State) : (pinDir l d s).cold = s.cold := rfl
@[simp] theorem pinDir_inited (l : Line) (d : Dir) (s : State) : (pinDir l d s).inited = s.inited := rfl
@[simp] theorem pinDir_lines (l : Line) (d : Dir) (s : State) : (pinDir l d s).lines = s.lines.setDir l d := rfl
@[simp] theorem pinDir_reader (l : Line) (d : Dir) (s : State) : (pinDir l d s).reader = s.reader := rfl
@[simp] theorem pinDir_irq (l : Line) (d : Dir) (s : State) : (pinDir l d s).irq = s.irq := rfl
@[simp] theorem pinDir_mem (l : Line) (d : Dir) (s : State) : (pinDir l d s).mem = s.mem := rfl
@[simp] theorem pinDir_pending (l : Line) (d : Dir) (s : State) : (pinDir l d s).pending = s.pending := rfl
@[simp] theorem pinDir_outRef (l : Line) (d : Dir) (s : State) : (pinDir l d s).outRef = s.outRef := rfl
@[simp] theorem pinDir_replies (l : Line) (d : Dir) (s : State) : (pinDir l d s).replies = s.replies := rfl
@[simp] theorem pinDir_history (l : Line) (d : Dir) (s : State) : (pinDir l d s).history = s.history ++ [.dir l d] := rfl
@[simp] theorem pinDir_pins (l : Line) (d : Dir) (s : State) : (pinDir l d s).pins = s.pins := rfl
@[simp] theorem pinDir_draws (l : Line) (d : Dir) (s : State) : (pinDir l d s).draws = s.draws := rfl

/-! ## delay -/

@[simp] theorem delay_lastRead (m : Nat) (s : State) : (delay m s).lastRead = s.lastRead := rfl
@[simp] theorem delay_lastReported (m : Nat) (s : State) : (delay m s).lastReported = s.lastReported := rfl
@[simp] theorem delay_cold (m : Nat) (s : State) : (delay m s).cold = s.cold := rfl
@[simp] theorem delay_inited (m : Nat) (s : State) : (delay m s).inited = s.inited := rfl
@[simp] theorem delay_lines (m : Nat) (s : State) : (delay m s).lines = s.lines := rfl
@[simp] theorem delay_reader (m : Nat) (s : State) : (delay m s).reader = s.reader := rfl
@[simp] theorem delay_irq (m : Nat) (s : State) : (delay m s).irq = s.irq := rfl
@[simp] theorem delay_mem (m : Nat) (s : State) : (delay m s).mem = s.mem := rfl
@[simp] theorem delay_pending (m : Nat) (s : State) : (delay m s).pending = s.pending := rfl
@[simp] theorem delay_outRef (m : Nat) (s : State) : (delay m s).outRef = s.outRef := rfl
@[simp] theorem delay_replies (m : Nat) (s : State) : (delay m s).replies = s.replies := rfl
@[simp] theorem delay_history (m : Nat) (s : State) : (delay m s).history = s.history ++ [.dly (delayTime m s)] := rfl
@[simp] theorem delay_pins (m : Nat) (s : State) : (delay m s).pins = s.pins := rfl
@[simp] theorem delay_draws (m : Nat) (s : State) : (delay m s).draws = s.draws.tail := rfl

/-! ## irqSaveAndMask -/

@[simp] theorem irqSaveAndMask_lastRead (s : State) : (irqSaveAndMask s).lastRead = s.lastRead := rfl
@[simp] theorem irqSaveAndMask_lastReported (s : State) : (irqSaveAndMask s).lastReported = s.lastReported := rfl
@[simp] theorem irqSaveAndMask_cold (s : State) : (irqSaveAndMask s).cold = s.cold := rfl
@[simp] theorem irqSaveAndMask_inited (s : State) : (irqSaveAndMask s).inited = s.inited := rfl
@[simp] theorem irqSaveAndMask_lines (s : State) : (irqSaveAndMask s).lines = s.lines := rfl
@[simp] theorem irqSaveAndMask_reader (s : State) : (irqSaveAndMask s).reader = s.reader := rfl
@[simp] theorem irqSaveAndMask_irq (s : State) : (irqSaveAndMask s).irq = { enabled := false, saved := some s.irq.enabled } := rfl
@[simp] theorem irqSaveAndMask_mem (s : State) : (irqSaveAndMask s).mem = s.mem := rfl
@[simp] theorem irqSaveAndMask_pending (s : State) : (irqSaveAndMask s).pending = s.pending := rfl
@[simp] theorem irqSaveAndMask_outRef (s : State) : (irqSaveAndMask s).outRef = s.outRef := rfl
@[simp] theorem irqSaveAndMask_replies (s : State) : (irqSaveAndMask s).replies = s.replies := rfl
@[simp] theorem irqSaveAndMask_history (s : State) : (irqSaveAndMask s).history = s.history := rfl
@[simp] theorem irqSaveAndMask_pins (s : State) : (irqSaveAndMask s).pins = s.pins := rfl
@[simp] theorem irqSaveAndMask_draws (s : State) : (irqSaveAndMask s).draws = s.draws := rfl

/-! ## irqRestore -/

@[simp] theorem irqRestore_lastRead (s : State) : (irqRestore s).lastRead = s.lastRead := rfl
@[simp] theorem irqRestore_lastReported (s : State) : (irqRestore s).lastReported = s.lastReported := rfl
@[simp] theorem irqRestore_cold (s : State) : (irqRestore s).cold = s.cold := rfl
@[simp] theorem irqRestore_inited (s : State) : (irqRestore s).inited = s.inited := rfl
@[simp] theorem irqRestore_lines (s : State) : (irqRestore s).lines = s.lines := rfl
@[simp] theorem irqRestore_reader (s : State) : (irqRestore s).reader = s.reader := rfl
@[simp] theorem irqRestore_irq (s : State) : (irqRestore s).irq = { enabled := s.irq.saved.getD s.irq.enabled, saved := none } := rfl
@[simp] theorem irqRestore_mem (s : State) : (irqRestore s).mem = s.mem := rfl
@[simp] theorem irqRestore_pending (s : State) : (irqRestore s).pending = s.pending := rfl
@[simp] theorem irqRestore_outRef (s : State) : (irqRestore s).outRef = s.outRef := rfl
@[simp] theorem irqRestore_replies (s : State) : (irqRestore s).replies = s.replies := rfl
@[simp] theorem irqRestore_history (s : State) : (irqRestore s).history = s.history := rfl
@[simp] theorem irqRestore_pins (s : State) : (irqRestore s).pins = s.pins := rfl
@[simp] theorem irqRestore_draws (s : State) : (irqRestore s).draws = s.draws := rfl

/-! ## storeRead -/

@[simp] theorem storeRead_lastRead (r : Report) (s : State) : (storeRead r s).lastRead = r := rfl
@[simp] theorem storeRead_lastReported (r : Report) (s : State) : (storeRead r s).lastReported = s.lastReported := rfl
@[simp] theorem storeRead_cold (r : Report) (s : State) : (storeRead r s).cold = s.cold := rfl
@[simp] theorem storeRead_inited (r : Report) (s : State) : (storeRead r s).inited = s.inited := rfl
@[simp] theorem storeRead_lines (r : Report) (s : State) : (storeRead r s).lines = s.lines := rfl
@[simp] theorem storeRead_reader (r : Report) (s : State) : (storeRead r s).reader = s.reader := rfl
@[simp] theorem storeRead_irq (r : Report) (s : State) : (storeRead r s).irq = s.irq := rfl
@[simp] theorem storeRead_mem (r : Report) (s : State) : (storeRead r s).mem = s.mem := rfl
@[simp] theorem storeRead_pending (r : Report) (s : State) : (storeRead r s).pending = s.pending := rfl
@[simp] theorem storeRead_outRef (r : Report) (s : State) : (storeRead r s).outRef = s.outRef := rfl
@[simp] theorem storeRead_replies (r : Report) (s : State) : (storeRead r s).replies = s.replies := rfl
@[simp] theorem storeRead_history (r : Report) (s : State) : (storeRead r s).history = s.history := rfl
@[simp] theorem storeRead_pins (r : Report) (s : State) : (storeRead r s).pins = s.pins := rfl
@[simp] theorem storeRead_draws (r : Report) (s : State) : (storeRead r s).draws = s.draws := rfl

/-! ## commitRead -/

@[simp] theorem commitRead_lastRead (s : State) : (commitRead s).lastRead = s.lastRead := rfl
@[simp] theorem commitRead_lastReported (s : State) : (commitRead s).lastReported = s.lastRead := rfl
@[simp] theorem commitRead_cold (s : State) : (commitRead s).cold = s.cold := rfl
@[simp] theorem commitRead_inited (s : State) : (commitRead s).inited = s.inited := rfl
@[simp] theorem commitRead_lines (s : State) : (commitRead s).lines = s.lines := rfl
@[simp] theorem commitRead_reader (s : State) : (commitRead s).reader = s.reader := rfl
@[simp] theorem commitRead_irq (s : State) : (commitRead s).irq = s.irq := rfl
@[simp] theorem commitRead_mem (s : State) : (commitRead s).mem = s.mem := rfl
@[simp] theorem commitRead_pending (s : State) : (commitRead s).pending = s.pending := rfl
@[simp] theorem commitRead_outRef (s : State) : (commitRead s).outRef = s.outRef := rfl
@[simp] theorem commitRead_replies (s : State) : (commitRead s).replies = s.replies := rfl
@[simp] theorem commitRead_history (s : State) : (commitRead s).history = s.history := rfl
@[simp] theorem commitRead_pins (s : State) : (commitRead s).pins = s.pins := rfl
@[simp] theorem commitRead_draws (s : State) : (commitRead s).draws = s.draws := rfl

/-! ## exportRead -/

@[simp] theorem exportRead_lastRead (s : State) : (exportRead s).lastRead = s.lastRead := by
  unfold exportRead; split <;> rfl
@[simp] theorem exportRead_lastReported (s : State) : (exportRead s).lastReported = s.lastReported := by
  unfold exportRead; split <;> rfl
@[simp] theorem exportRead_cold (s : State) : (exportRead s).cold = s.cold := by
  unfold exportRead; split <;> rfl
@[simp] theorem exportRead_inited (s : State) : (exportRead s).inited = s.inited := by
  unfold exportRead; split <;> rfl
@[simp] theorem exportRead_lines (s : State) : (exportRead s).lines = s.lines := by
  unfold exportRead; split <;> rfl
@[simp] theorem exportRead_reader (s : State) : (exportRead s).reader = s.reader := by
  unfold exportRead; split <;> rfl
@[simp] theorem exportRead_irq (s : State) : (exportRead s).irq = s.irq := by
  unfold exportRead; split <;> rfl
@[simp] theorem exportRead_pending (s : State) : (exportRead s).pending = s.pending := by
  unfold exportRead; split <;> rfl
@[simp] theorem exportRead_outRef (s : State) : (exportRead s).outRef = s.outRef := by
  unfold exportRead; split <;> rfl
@[simp] theorem exportRead_replies (s : State) : (exportRead s).replies = s.replies := by
  unfold exportRead; split <;> rfl
@[simp] theorem exportRead_history (s : State) : (exportRead s).history = s.history := by
  unfold exportRead; split <;> rfl
@[simp] theorem exportRead_pins (s : State) : (exportRead s).pins = s.pins := by
  unfold exportRead; split <;> rfl
@[simp] theorem exportRead_draws (s : State) : (exportRead s).draws = s.draws := by
  unfold exportRead; split <;> rfl
theorem exportRead_mem_none (s : State) (h : s.outRef = none) : (exportRead s).mem = s.mem := by
  simp [exportRead, h]
theorem exportRead_mem_some (s : State) (b : Nat) (h : s.outRef = some b) :
    (exportRead s).mem = Memory.write s.mem b (overwriteHead s.lastRead (Memory.read s.mem b)) := by
  simp [exportRead, h]

/-! ## complete -/

@[simp] theorem complete_lastRead (v : Value) (s : State) : (complete v s).lastRead = s.lastRead := rfl
@[simp] theorem complete_lastReported (v : Value) (s : State) : (complete v s).lastReported = s.lastReported := rfl
@[simp] theorem complete_cold (v : Value) (s : State) : (complete v s).cold = s.cold := rfl
@[simp] theorem complete_inited (v : Value) (s : State) : (complete v s).inited = s.inited := rfl
@[simp] theorem complete_lines (v : Value) (s : State) : (complete v s).lines = s.lines := rfl
@[simp] theorem complete_reader (v : Value) (s : State) : (complete v s).reader = s.reader := rfl
@[simp] theorem complete_irq (v : Value) (s : State) : (complete v s).irq = s.irq := rfl
@[simp] theorem complete_mem (v : Value) (s : State) : (complete v s).mem = s.mem := rfl
@[simp] theorem complete_pending (v : Value) (s : State) : (complete v s).pending = s.pending := rfl
@[simp] theorem complete_outRef (v : Value) (s : State) : (complete v s).outRef = s.outRef := rfl
@[simp] theorem complete_replies (v : Value) (s : State) : (complete v s).replies = s.replies ++ [{ status := .none, value := v }] := rfl
@[simp] theorem complete_history (v : Value) (s : State) : (complete v s).history = s.history := rfl
@[simp] theorem complete_pins (v : Value) (s : State) : (complete v s).pins = s.pins := rfl
@[simp] theorem complete_draws (v : Value) (s : State) : (complete v s).draws = s.draws := rfl

/-! ## reject -/

@[simp] theorem reject_lastRead (c : Status) (s : State) : (reject c s).lastRead = s.lastRead := rfl
@[simp] theorem reject_lastReported (c : Status) (s : State) : (reject c s).lastReported = s.lastReported := rfl
@[simp] theorem reject_cold (c : Status) (s : State) : (reject c s).cold = s.cold := rfl
@[simp] theorem reject_inited (c : Status) (s : State) : (reject c s).inited = s.inited := rfl
@[simp] theorem reject_lines (c : Status) (s : State) : (reject c s).lines = s.lines := rfl
@[simp] theorem reject_reader (c : Status) (s : State) : (reject c s).reader = s.reader := rfl
@[simp] theorem reject_irq (c : Status) (s : State) : (reject c s).irq = s.irq := rfl
@[simp] theorem reject_mem (c : Status) (s : State) : (reject c s).mem = s.mem := rfl
@[simp] theorem reject_pending (c : Status) (s : State) : (reject c s).pending = s.pending := rfl
@[simp] theorem reject_outRef (c : Status) (s : State) : (reject c s).outRef = s.outRef := rfl
@[simp] theorem reject_replies (c : Status) (s : State) : (reject c s).replies = s.replies ++ [{ status := c, value := .unit }] := rfl
@[simp] theorem reject_history (c : Status) (s : State) : (reject c s).history = s.history := rfl
@[simp] theorem reject_pins (c : Status) (s : State) : (reject c s).pins = s.pins := rfl
@[simp] theorem reject_draws (c : Status) (s : State) : (reject c s).draws = s.draws := rfl

/-! ## clearCold -/

@[simp] theorem clearCold_lastRead (s : State) : (clearCold s).lastRead = s.lastRead := rfl
@[simp] theorem clearCold_lastReported (s : State) : (clearCold s).lastReported = s.lastReported := rfl
@[simp] theorem clearCold_cold (s : State) : (clearCold s).cold = false := rfl
@[simp] theorem clearCold_inited (s : State) : (clearCold s).inited = s.inited := rfl
@[simp] theorem clearCold_lines (s : State) : (clearCold s).lines = s.lines := rfl
@[simp] theorem clearCold_reader (s : State) : (clearCold s).reader = s.reader := rfl
@[simp] theorem clearCold_irq (s : State) : (clearCold s).irq = s.irq := rfl
@[simp] theorem clearCold_mem (s : State) : (clearCold s).mem = s.mem := rfl
@[simp] theorem clearCold_pending (s : State) : (clearCold s).pending = s.pending := rfl
@[simp] theorem clearCold_outRef (s : State) : (clearCold s).outRef = s.outRef := rfl
@[simp] theorem clearCold_replies (s : State) : (clearCold s).replies = s.replies := rfl
@[simp] theorem clearCold_history (s : State) : (clearCold s).history = s.history := rfl
@[simp] theorem clearCold_pins (s : State) : (clearCold s).pins = s.pins := rfl
@[simp] theorem clearCold_draws (s : State) : (clearCold s).draws = s.draws := rfl

/-! ## markInited -/

@[simp] theorem markInited_lastRead (s : State) : (markInited s).lastRead = s.lastRead := rfl
@[simp] theorem markInited_lastReported (s : State) : (markInited s).lastReported = s.lastReported := rfl
@[simp] theorem markInited_cold (s : State) : (markInited s).cold = s.cold := rfl
@[simp] theorem markInited_inited (s : State) : (markInited s).inited = true := rfl
@[simp] theorem markInited_lines (s : State) : (markInited s).lines = s.lines := rfl
@[simp] theorem markInited_reader (s : State) : (markInited s).reader = s.reader := rfl
@[simp] theorem markInited_irq (s : State) : (markInited s).irq = s.irq := rfl
@[simp] theorem markInited_mem (s : State) : (markInited s).mem = s.mem := rfl
@[simp] theorem markInited_pending (s : State) : (markInited s).pending = s.pending := rfl
@[simp] theorem markInited_outRef (s : State) : (markInited s).outRef = s.outRef := rfl
@[simp] theorem markInited_replies (s : State) : (markInited s).replies = s.replies := rfl
@[simp] theorem markInited_history (s : State) : (markInited s).history = s.history := rfl
@[simp] theorem markInited_pins (s : State) : (markInited s).pins = s.pins := rfl
@[simp] theorem markInited_draws (s : State) : (markInited s).draws = s.draws := rfl

/-! ## startRead -/

@[simp] theorem startRead_lastRead (s : State) : (startRead s).lastRead = s.lastRead := rfl
@[simp] theorem startRead_lastReported (s : State) : (startRead s).lastReported = s.lastReported := rfl
@[simp] theorem startRead_cold (s : State) : (startRead s).cold = s.cold := rfl
@[simp] theorem startRead_inited (s : State) : (startRead s).inited = s.inited := rfl
@[simp] theorem startRead_lines (s : State) : (startRead s).lines = s.lines := rfl
@[simp] theorem startRead_reader (s : State) : (startRead s).reader = { s.reader with seq := .s0 } := rfl
@[simp] theorem startRead_irq (s : State) : (startRead s).irq = s.irq := rfl
@[simp] theorem startRead_mem (s : State) : (startRead s).mem = s.mem := rfl
@[simp] theorem startRead_pending (s : State) : (startRead s).pending = s.pending := rfl
@[simp] theorem startRead_outRef (s : State) : (startRead s).outRef = s.outRef := rfl
@[simp] theorem startRead_replies (s : State) : (startRead s).replies = s.replies := rfl
@[simp] theorem startRead_history (s : State) : (startRead s).history = s.history := rfl
@[simp] theorem startRead_pins (s : State) : (startRead s).pins = s.pins := rfl
@[simp] theorem startRead_draws (s : State) : (startRead s).draws = s.draws := rfl

/-! ## takeCommand -/

@[simp] theorem takeCommand_lastRead (c : Command) (rest : List Command) (s : State) : (takeCommand c rest s).lastRead = s.lastRead := rfl
@[simp] theorem takeCommand_lastReported (c : Command) (rest : List Command) (s : State) : (takeCommand c rest s).lastReported = s.lastReported := rfl
@[simp] theorem takeCommand_cold (c : Command) (rest : List Command) (s : State) : (takeCommand c rest s).cold = s.cold := rfl
@[simp] theorem takeCommand_inited (c : Command) (rest : List Command) (s : State) : (takeCommand c rest s).inited = s.inited := rfl
@[simp] theorem takeCommand_lines (c : Command) (rest : List Command) (s : State) : (takeCommand c rest s).lines = s.lines := rfl
@[simp] theorem takeCommand_reader (c : Command) (rest : List Command) (s : State) : (takeCommand c rest s).reader = s.reader := rfl
@[simp] theorem takeCommand_irq (c : Command) (rest : List Command) (s : State) : (takeCommand c rest s).irq = s.irq := rfl
@[simp] theorem takeCommand_mem (c : Command) (rest : List Command) (s : State) : (takeCommand c rest s).mem = s.mem := rfl
@[simp] theorem takeCommand_pending (c : Command) (rest : List Command) (s : State) : (takeCommand c rest s).pending = rest := rfl
@[simp] theorem takeCommand_outRef (c : Command) (rest : List Command) (s : State) : (takeCommand c rest s).outRef = c.out := rfl
@[simp] theorem takeCommand_replies (c : Command) (rest : List Command) (s : State) : (takeCommand c rest s).replies = s.replies := rfl
@[simp] theorem takeCommand_history (c : Command) (rest : List Command) (s : State) : (takeCommand c rest s).history = s.history := rfl
@[simp] theorem takeCommand_pins (c : Command) (rest : List Command) (s : State) : (takeCommand c rest s).pins = s.pins := rfl
@[simp] theorem takeCommand_draws (c : Command) (rest : List Command) (s : State) : (takeCommand c rest s).draws = s.draws := rfl

/-! ## completeExport -/

@[simp] theorem completeExport_lastRead (s : State) : (completeExport s).lastRead = s.lastRead := rfl
@[simp] theorem completeExport_lastReported (s : State) : (completeExport s).lastReported = s.lastReported := rfl
@[simp] theorem completeExport_cold (s : State) : (completeExport s).cold = s.cold := rfl
@[simp] theorem completeExport_inited (s : State) : (completeExport s).inited = s.inited := rfl
@[simp] theorem completeExport_lines (s : State) : (completeExport s).lines = s.lines := rfl
@[simp] theorem completeExport_reader (s : State) : (completeExport s).reader = s.reader := rfl
@[simp] theorem completeExport_irq (s : State) : (completeExport s).irq = s.irq := rfl
@[simp] theorem completeExport_mem (s : State) : (completeExport s).mem = s.mem := rfl
@[simp] theorem completeExport_pending (s : State) : (completeExport s).pending = s.pending := rfl
@[simp] theorem completeExport_outRef (s : State) : (completeExport s).outRef = s.outRef := rfl
@[simp] theorem completeExport_replies (s : State) : (completeExport s).replies = s.replies ++ [{ status := .none, value := .unit, out := outHead s }] := rfl
@[simp] theorem completeExport_history (s : State) : (completeExport s).history = s.history := rfl
@[simp] theorem completeExport_pins (s : State) : (completeExport s).pins = s.pins := rfl
@[simp] theorem completeExport_draws (s : State) : (completeExport s).draws = s.draws := rfl

/-! ## issue -/

@[simp] theorem issue_lastRead (cs : List Command) (s : State) : (issue cs s).lastRead = s.lastRead := rfl
@[simp] theorem issue_lastReported (cs : List Command) (s : State) : (issue cs s).lastReported = s.lastReported := rfl
@[simp] theorem issue_cold (cs : List Command) (s : State) : (issue cs s).cold = s.cold := rfl
@[simp] theorem issue_inited (cs : List Command) (s : State) : (issue cs s).inited = s.inited := rfl
@[simp] theorem issue_lines (cs : List Command) (s : State) : (issue cs s).lines = s.lines := rfl
@[simp] theorem issue_reader (cs : List Command) (s : State) : (issue cs s).reader = s.reader := rfl
@[simp] theorem issue_irq (cs : List Command) (s : State) : (issue cs s).irq = s.irq := rfl
@[simp] theorem issue_mem (cs : List Command) (s : State) : (issue cs s).mem = s.mem := rfl
@[simp] theorem issue_pending (cs : List Command) (s : State) : (issue cs s).pending = s.pending ++ cs := rfl
@[simp] theorem issue_outRef (cs : List Command) (s : State) : (issue cs s).outRef = s.outRef := rfl
@[simp] theorem issue_replies (cs : List Command) (s : State) : (issue cs s).replies = s.replies := rfl
@[simp] theorem issue_history (cs : List Command) (s : State) : (issue cs s).history = s.history := rfl
@[simp] theorem issue_pins (cs : List Command) (s : State) : (issue cs s).pins = s.pins := rfl
@[simp] theorem issue_draws (cs : List Command) (s : State) : (issue cs s).draws = s.draws := rfl

/-! ## provide -/

@[simp] theorem provide_lastRead (b : Nat) (bytes : List Byte) (s : State) : (provide b bytes s).lastRead = s.lastRead := rfl
@[simp] theorem provide_lastReported (b : Nat) (bytes : List Byte) (s : State) : (provide b bytes s).lastReported = s.lastReported := rfl
@[simp] theorem provide_cold (b : Nat) (bytes : List Byte) (s : State) : (provide b bytes s).cold = s.cold := rfl
@[simp] theorem provide_inited (b : Nat) (bytes : List Byte) (s : State) : (provide b bytes s).inited = s.inited := rfl
@[simp] theorem provide_lines (b : Nat) (bytes : List Byte) (s : State) : (provide b bytes s).lines = s.lines := rfl
@[simp] theorem provide_reader (b : Nat) (bytes : List Byte) (s : State) : (provide b bytes s).reader = s.reader := rfl
@[simp] theorem provide_irq (b : Nat) (bytes : List Byte) (s : State) : (provide b bytes s).irq = s.irq := rfl
@[simp] theorem provide_mem (b : Nat) (bytes : List Byte) (s : State) : (provide b bytes s).mem = Memory.write s.mem b bytes := rfl
@[simp] theorem provide_pending (b : Nat) (bytes : List Byte) (s : State) : (provide b bytes s).pending = s.pending := rfl
@[simp] theorem provide_outRef (b : Nat) (bytes : List Byte) (s : State) : (provide b bytes s).outRef = s.outRef := rfl
@[simp] theorem provide_replies (b : Nat) (bytes : List Byte) (s : State) : (provide b bytes s).replies = s.replies := rfl
@[simp] theorem provide_history (b : Nat) (bytes : List Byte) (s : State) : (provide b bytes s).history = s.history := rfl
@[simp] theorem provide_pins (b : Nat) (bytes : List Byte) (s : State) : (provide b bytes s).pins = s.pins := rfl
@[simp] theorem provide_draws (b : Nat) (bytes : List Byte) (s : State) : (provide b bytes s).draws = s.draws := rfl

/-! ## setInterrupts -/

@[simp] theorem setInterrupts_lastRead (on : Bool) (s : State) : (setInterrupts on s).lastRead = s.lastRead := rfl
@[simp] theorem setInterrupts_lastReported (on : Bool) (s : State) : (setInterrupts on s).lastReported = s.lastReported := rfl
@[simp] theorem setInterrupts_cold (on : Bool) (s : State) : (setInterrupts on s).cold = s.cold := rfl
@[simp] theorem setInterrupts_inited (on : Bool) (s : State) : (setInterrupts on s).inited = s.inited := rfl
@[simp] theorem setInterrupts_lines (on : Bool) (s : State) : (setInterrupts on s).lines = s.lines := rfl
@[simp] theorem setInterrupts_reader (on : Bool) (s : State) : (setInterrupts on s).reader = s.reader := rfl
@[simp] theorem setInterrupts_irq (on : Bool) (s : State) : (setInterrupts on s).irq = { s.irq with enabled := on } := rfl
@[simp] theorem setInterrupts_mem (on : Bool) (s : State) : (setInterrupts on s).mem = s.mem := rfl
@[simp] theorem setInterrupts_pending (on : Bool) (s : State) : (setInterrupts on s).pending = s.pending := rfl
@[simp] theorem setInterrupts_outRef (on : Bool) (s : State) : (setInterrupts on s).outRef = s.outRef := rfl
@[simp] theorem setInterrupts_replies (on : Bool) (s : State) : (setInterrupts on s).replies = s.replies := rfl
@[simp] theorem setInterrupts_history (on : Bool) (s : State) : (setInterrupts on s).history = s.history := rfl
@[simp] theorem setInterrupts_pins (on : Bool) (s : State) : (setInterrupts on s).pins = s.pins := rfl
@[simp] theorem setInterrupts_draws (on : Bool) (s : State) : (setInterrupts on s).draws = s.draws := rfl

end Sys2Proof.Machine
end

