-- ==== Sys2Proof/Laws/Reader.lean ====
section
/-! SUPPORT. READ: what the environment gives one READ (`takenRun`), and the one lemma that says what the whole step sequence
does (`runRead_eq`). -/

namespace Sys2Proof.Machine

/-- The answer to a PinRead, from the fields it depends on. -/
def answerOf (pins : List Level) (h : List LineEvent) (l : Line) : Level :=
  match pins with
  | [] => Config.pinOracle h l
  | v :: _ => v

/-- The time of a delay, from the fields it depends on. -/
def timeOf (min : Nat) (draws : List Nat) (h : List LineEvent) : Nat :=
  match draws with
  | [] => min + Config.delayExtra h
  | d :: _ => min + d

theorem pinAnswer_eq (l : Line) (s : State) : pinAnswer l s = answerOf s.pins s.history l := rfl
theorem delayTime_eq (m : Nat) (s : State) : delayTime m s = timeOf m s.draws s.history := rfl

/-- A delay never undercuts its minimum (R236). -/
theorem le_timeOf (m : Nat) (draws : List Nat) (h : List LineEvent) : m ≤ timeOf m draws h := by
  unfold timeOf; split <;> omega

/-- What one iteration of the loop takes from the environment. -/
def takenCycle (pins : List Level) (draws : List Nat) (h : List LineEvent) : BitCycle where
  sb := answerOf pins h .data
  tHigh := timeOf Config.tClkHMin draws (h ++ [.rd .data (answerOf pins h .data), .wr .clk .high])
  tLow :=
    timeOf Config.tClkLMin draws.tail
      (h ++ [.rd .data (answerOf pins h .data), .wr .clk .high,
        .dly (timeOf Config.tClkHMin draws (h ++ [.rd .data (answerOf pins h .data), .wr .clk .high])), .wr .clk .low])

theorem takenCycle_meets (pins : List Level) (draws : List Nat) (h : List LineEvent) :
    (takenCycle pins draws h).meetsMinimums :=
  ⟨le_timeOf _ _ _, le_timeOf _ _ _⟩

/-- The loop body (S11 to S16): one sample, one clock pulse, the next index. -/
theorem readCycle_eq (s : State) (hs : s.reader.seq = .s11) :
    readSteps 6 s =
      { s with
        lines := { s.lines with clkLvl := .low }
        reader :=
          { s.reader with
            raw := RawBits.set s.reader.raw s.reader.i.val (pressed (answerOf s.pins s.history .data))
            i := nextIndex s.reader.i
            seq := if (nextIndex s.reader.i).val < Config.nBits then .s11 else .s17 }
        history := s.history ++ (takenCycle s.pins s.draws s.history).events
        pins := s.pins.tail
        draws := s.draws.tail.tail } := by
  obtain ⟨lr, lp, c, ini, lines, ⟨x, y, raw, i, seq⟩, irq, mem, pend, out, rep, hist, pins, draws⟩ := s
  subst hs
  simp [readSteps, readStep, readS11, readS12, readS13, readS14, readS15, readS16, pinRead, pinWrite, delay, pinAnswer_eq,
    delayTime_eq, Lines.setLatch, takenCycle, BitCycle.events, List.append_assoc]

/-- A sample is the answer the environment listed, where it listed one. -/
def sampleFrom (pins : List Level) (v : Level) : Prop := ∀ w, pins.head? = some w → v = w

/-- A delay is its minimum and the excess the environment listed, where it listed one. -/
def delayFrom (min : Nat) (draws : List Nat) (t : Nat) : Prop := ∀ d, draws.head? = some d → t = min + d

theorem answerOf_from (pins : List Level) (h : List LineEvent) (l : Line) : sampleFrom pins (answerOf pins h l) := by
  intro w hw; cases pins <;> simp_all [answerOf]

theorem timeOf_from (m : Nat) (draws : List Nat) (h : List LineEvent) : delayFrom m draws (timeOf m draws h) := by
  intro d hd; cases draws <;> simp_all [timeOf]

/-- The state after an iteration that took `c`. -/
def afterCycle (c : BitCycle) (s : State) : State :=
  { s with
    lines := { s.lines with clkLvl := .low }
    reader :=
      { s.reader with
        raw := RawBits.set s.reader.raw s.reader.i.val (pressed c.sb)
        i := nextIndex s.reader.i
        seq := if (nextIndex s.reader.i).val < Config.nBits then .s11 else .s17 }
    history := s.history ++ c.events
    pins := s.pins.tail
    draws := s.draws.tail.tail }

/-- The loop body, as one relation: what was taken, and where it came from. -/
theorem readCycle_spec (s : State) (hs : s.reader.seq = .s11) :
    ∃ c : BitCycle, c.meetsMinimums ∧ sampleFrom s.pins c.sb ∧ delayFrom Config.tClkHMin s.draws c.tHigh ∧
      delayFrom Config.tClkLMin s.draws.tail c.tLow ∧ readSteps 6 s = afterCycle c s :=
  ⟨takenCycle s.pins s.draws s.history, takenCycle_meets _ _ _, answerOf_from _ _ _, timeOf_from _ _ _, timeOf_from _ _ _,
    readCycle_eq s hs⟩

theorem readSteps_add (m n : Nat) (s : State) : readSteps (m + n) s = readSteps n (readSteps m s) := by
  induction m generalizing s with
  | zero => simp [readSteps]
  | succ m ih => rw [Nat.succ_add]; exact ih _

/-- The state after the direction lines were sampled (S0 to S4) as `su`, `sd`, `sl`, `sr`. -/
def afterSampler (su sd sl sr : Level) (s : State) : State :=
  { s with
    reader :=
      { s.reader with
        x := if sr = .low then 0xFF#8 else if sl = .low then 0x00#8 else 0x80#8
        y := if sd = .low then 0xFF#8 else if su = .low then 0x00#8 else 0x80#8
        seq := .s5 }
    history := s.history ++ [.rd .up su, .rd .down sd, .rd .left sl, .rd .right sr]
    pins := s.pins.drop 4 }

/-- S0 to S4 (R112 to R117). -/
theorem readSampler_spec (s : State) :
    ∃ su sd sl sr, sampleFrom s.pins su ∧ sampleFrom (s.pins.drop 1) sd ∧ sampleFrom (s.pins.drop 2) sl ∧
      sampleFrom (s.pins.drop 3) sr ∧ readSteps 5 (startRead s) = afterSampler su sd sl sr s := by
  obtain ⟨lr, lp, c, ini, lines, ⟨x, y, raw, i, seq⟩, irq, mem, pend, out, rep, hist, pins, draws⟩ := s
  obtain ⟨su, hu⟩ : ∃ v, answerOf pins hist .up = v := ⟨_, rfl⟩
  obtain ⟨sd, hd⟩ : ∃ v, answerOf pins.tail (hist ++ [.rd .up su]) .down = v := ⟨_, rfl⟩
  obtain ⟨sl, hl⟩ : ∃ v, answerOf pins.tail.tail (hist ++ [.rd .up su, .rd .down sd]) .left = v := ⟨_, rfl⟩
  obtain ⟨sr, hr⟩ : ∃ v, answerOf pins.tail.tail.tail (hist ++ [.rd .up su, .rd .down sd, .rd .left sl]) .right = v :=
    ⟨_, rfl⟩
  refine ⟨su, sd, sl, sr, hu ▸ answerOf_from _ _ _, ?_, ?_, ?_, ?_⟩
  · rw [List.drop_one, ← hd]; exact answerOf_from _ _ _
  · rw [← List.tail_drop, List.drop_one, ← hl]; exact answerOf_from _ _ _
  · rw [← List.tail_drop, ← List.tail_drop, List.drop_one, ← hr]; exact answerOf_from _ _ _
  · simp [readSteps, readStep, startRead, readS0, readS1, readS2, readS3, readS4, pinRead, pinAnswer_eq, afterSampler,
      overwriteAxis, Config.axisCentre, Config.axisMin, Config.axisMax, hu, hd, hl, hr]
    simp [← List.drop_one]

/-- The state at the loop's entry (S11, I = 0), the load pulse and the settle delay over. -/
def afterLoad (tLoad tSettle : Nat) (s : State) : State :=
  { s with
    lines := { s.lines with loadLvl := .low, clkDir := .output }
    reader := { s.reader with raw := RawBits.zero, i := 0, seq := .s11 }
    history := s.history ++ [.wr .load .high, .dly tLoad, .wr .load .low, .dly tSettle, .dir .clk .output]
    draws := s.draws.drop 2 }

/-- S5 to S10 (R118 to R120). -/
theorem readLoad_spec (s : State) (hs : s.reader.seq = .s5) :
    ∃ tLoad tSettle, Config.tLoadMin ≤ tLoad ∧ Config.tSettleMin ≤ tSettle ∧ delayFrom Config.tLoadMin s.draws tLoad ∧
      delayFrom Config.tSettleMin (s.draws.drop 1) tSettle ∧ readSteps 6 s = afterLoad tLoad tSettle s := by
  obtain ⟨lr, lp, c, ini, lines, ⟨x, y, raw, i, seq⟩, irq, mem, pend, out, rep, hist, pins, draws⟩ := s
  subst hs
  obtain ⟨tl, hl⟩ : ∃ t, timeOf Config.tLoadMin draws (hist ++ [.wr .load .high]) = t := ⟨_, rfl⟩
  obtain ⟨ts, hs⟩ : ∃ t, timeOf Config.tSettleMin draws.tail (hist ++ [.wr .load .high, .dly tl, .wr .load .low]) = t :=
    ⟨_, rfl⟩
  refine ⟨tl, ts, hl ▸ le_timeOf _ _ _, hs ▸ le_timeOf _ _ _, hl ▸ timeOf_from _ _ _, ?_, ?_⟩
  · rw [List.drop_one, ← hs]; exact timeOf_from _ _ _
  · simp [readSteps, readStep, readS5, readS6, readS7, readS8, readS9, readS10, pinWrite, pinDir, delay, delayTime_eq,
      Lines.setLatch, Lines.setDir, afterLoad, hl, hs]
    simp [← List.drop_one]

/-- The state after the iterations `cs`. -/
def afterCycles (cs : List BitCycle) (s : State) : State := cs.foldl (fun t c => afterCycle c t) s

/-- The whole loop (R120 to R123): from I = 8 - n, n iterations. -/
theorem readLoop_spec (n : Nat) :
    ∀ s : State, (n ≠ 0 → s.reader.seq = .s11) → s.reader.i.val + n = 8 →
      ∃ cs : List BitCycle, cs.length = n ∧ (∀ c ∈ cs, c.meetsMinimums) ∧
        (∀ k v, k < n → s.pins[k]? = some v → (cs.map BitCycle.sb)[k]? = some v) ∧
        (∀ k d, k < n → s.draws[2 * k]? = some d → (cs.map BitCycle.tHigh)[k]? = some (Config.tClkHMin + d)) ∧
        (∀ k d, k < n → s.draws[2 * k + 1]? = some d → (cs.map BitCycle.tLow)[k]? = some (Config.tClkLMin + d)) ∧
        readSteps (6 * n) s = afterCycles cs s := by
  induction n with
  | zero => intro s _ _; exact ⟨[], rfl, by simp, by simp, by simp, by simp, rfl⟩
  | succ n ih =>
    intro s hs hi
    obtain ⟨c, hm, ha, hh, hl, e⟩ := readCycle_spec s (hs (by omega))
    have hlt : s.reader.i.val < 8 := by omega
    have hnext : (nextIndex s.reader.i).val = s.reader.i.val + 1 := by simp [nextIndex, hlt]
    obtain ⟨cs, hlen, hmin, hp, hh', hl', e'⟩ := ih (afterCycle c s)
      (fun hn => by simp [afterCycle, hnext, Config.nBits]; omega) (by simp [afterCycle, hnext]; omega)
    refine ⟨c :: cs, by simp [hlen], by simpa using ⟨hm, hmin⟩, ?_, ?_, ?_, ?_⟩
    · rintro (_ | k) v hk hv
      · simpa using ha v (by simpa [List.head?_eq_getElem?] using hv)
      · simpa using hp k v (by omega) (by simpa [afterCycle] using hv)
    · rintro (_ | k) d hk hd
      · simpa using hh d (by simpa [List.head?_eq_getElem?] using hd)
      · simpa using hh' k d (by omega) (by simpa [afterCycle, Nat.mul_add, Nat.add_assoc] using hd)
    · rintro (_ | k) d hk hd
      · simpa using hl d (by simpa [List.head?_eq_getElem?] using hd)
      · simpa using hl' k d (by omega) (by simpa [afterCycle, Nat.mul_add, Nat.add_assoc] using hd)
    · rw [show 6 * (n + 1) = 6 + 6 * n by omega, readSteps_add, e, e']; rfl

/-- S17 and S18 (R124, R125). -/
theorem readTail_eq (s : State) (hs : s.reader.seq = .s17) :
    readSteps 2 s =
      { s with
        lines := { s.lines with clkDir := .input }
        reader := { s.reader with seq := .idle }
        history := s.history ++ [.dir .clk .input] } := by
  simp [readSteps, readStep, hs, readS17, readS18, pinDir, Lines.setDir]

/-- The raw bits READ records (R121). -/
def ReadRun.raw (r : ReadRun) : RawBits :=
  ⟨pressed r.c0.sb, pressed r.c1.sb, pressed r.c2.sb, pressed r.c3.sb, pressed r.c4.sb, pressed r.c5.sb, pressed r.c6.sb,
    pressed r.c7.sb⟩

/-- A READ took what the environment listed, as far as its lists went. -/
structure ReadRun.TakenFrom (r : ReadRun) (pins : List Level) (draws : List Nat) : Prop where
  samples : ∀ k v, k < 12 → pins[k]? = some v → r.samples[k]? = some v
  tLoad : ∀ d, draws[0]? = some d → r.tLoad = Config.tLoadMin + d
  tSettle : ∀ d, draws[1]? = some d → r.tSettle = Config.tSettleMin + d
  tHigh : ∀ k d, k < 8 → draws[2 + 2 * k]? = some d → (r.cycles.map BitCycle.tHigh)[k]? = some (Config.tClkHMin + d)
  tLow : ∀ k d, k < 8 → draws[2 + (2 * k + 1)]? = some d → (r.cycles.map BitCycle.tLow)[k]? = some (Config.tClkLMin + d)

/-- The state after a READ that took `r` (R126, R128). -/
def afterRead (r : ReadRun) (s : State) : State :=
  { s with
    lines := { s.lines with loadLvl := .low, clkLvl := .low, clkDir := .input }
    reader := { x := r.result.x, y := r.result.y, raw := r.raw, i := 8, seq := .idle }
    history := s.history ++ r.trace
    pins := s.pins.drop 12
    draws := s.draws.drop 18 }

theorem eight_of_length {cs : List BitCycle} (h : cs.length = 8) :
    ∃ c0 c1 c2 c3 c4 c5 c6 c7, cs = [c0, c1, c2, c3, c4, c5, c6, c7] := by
  match cs, h with
  | [c0, c1, c2, c3, c4, c5, c6, c7], _ => exact ⟨c0, c1, c2, c3, c4, c5, c6, c7, rfl⟩

/-- READ, whole (R110, R126 to R128): it takes twelve samples and eighteen delays, each at least its minimum, and leaves the
state the function form gives. -/
theorem runRead_spec (s : State) :
    ∃ r : ReadRun, r.meetsMinimums ∧ r.TakenFrom s.pins s.draws ∧ runRead s = afterRead r s := by
  obtain ⟨su, sd, sl, sr, p0, p1, p2, p3, e1⟩ := readSampler_spec s
  obtain ⟨tLoad, tSettle, hl, hst, q0, q1, e2⟩ := readLoad_spec (afterSampler su sd sl sr s) rfl
  obtain ⟨cs, hlen, hm, hp, hh, hlo, e3⟩ := readLoop_spec 8 (afterLoad tLoad tSettle (afterSampler su sd sl sr s))
    (fun _ => rfl) rfl
  obtain ⟨c0, c1, c2, c3, c4, c5, c6, c7, rfl⟩ := eight_of_length hlen
  have e4 := readTail_eq (afterCycles [c0, c1, c2, c3, c4, c5, c6, c7]
    (afterLoad tLoad tSettle (afterSampler su sd sl sr s))) rfl
  refine ⟨⟨su, sd, sl, sr, tLoad, tSettle, c0, c1, c2, c3, c4, c5, c6, c7⟩, ⟨hl, hst, hm⟩, ⟨?_, ?_, ?_, ?_, ?_⟩, ?_⟩
  · intro k v hk hv
    simp only [sampleFrom, List.head?_eq_getElem?, List.getElem?_drop] at p0 p1 p2 p3
    match k, hk with
    | 0, _ => rw [p0 v hv]; rfl
    | 1, _ => rw [p1 v hv]; rfl
    | 2, _ => rw [p2 v hv]; rfl
    | 3, _ => rw [p3 v hv]; rfl
    | k + 4, hk =>
      have := hp k v (by omega) (by simpa [afterLoad, afterSampler, Nat.add_comm] using hv)
      simpa [ReadRun.samples, ReadRun.cycles] using this
  · intro d hd; exact q0 d (by simpa [afterSampler, List.head?_eq_getElem?] using hd)
  · intro d hd; exact q1 d (by simpa [afterSampler, List.head?_eq_getElem?] using hd)
  · intro k d hk hd; exact hh k d hk (by simpa [afterLoad, afterSampler] using hd)
  · intro k d hk hd; exact hlo k d hk (by simpa [afterLoad, afterSampler] using hd)
  · rw [runRead, show Config.readStepCount = 5 + (6 + (6 * 8 + 2)) from rfl, readSteps_add, readSteps_add, readSteps_add,
      e1, e2, e3, e4]
    simp [afterCycles, afterCycle, afterLoad, afterSampler, afterRead, nextIndex, RawBits.set, RawBits.zero, Config.nBits,
      ReadRun.trace, ReadRun.cycles, ReadRun.result, ReadRun.raw, List.append_assoc]

end Sys2Proof.Machine
end

