-- ==== Sys2Proof/Laws/Step.lean ====
section
/-! SUPPORT. What a step can do, said once, and what each shared operation of a meaning can do. -/

namespace Sys2Proof.Machine

/-- A next state is the same next state. -/
@[simp] theorem next_inj {s t : State} :
    (Host.Outcome.next s : Host.Outcome State Fault Refusal) = .next t ↔ s = t :=
  ⟨fun h => by injection h, fun h => by rw [h]⟩

/-- A step is one of: waiting, rejecting a reserved byte, running the operation of the oldest command, or one step of the
UPDATE in progress. -/
theorem step_cases {s t : State} (h : step s = .next t) :
    (s.reader.seq = .idle ∧ s.pending = [] ∧ t = s) ∨
    (∃ c rest e, s.reader.seq = .idle ∧ s.pending = c :: rest ∧ decode [c.byte] = .error e ∧
      t = reject .reserved (takeCommand c rest s)) ∨
    (∃ c rest i l, s.reader.seq = .idle ∧ s.pending = c :: rest ∧ decode [c.byte] = .ok (i, l) ∧
      exec i (takeCommand c rest s) = .next t) ∨
    (s.reader.seq ≠ .idle ∧ t = updateStep s) := by
  unfold step at h
  split at h
  · rename_i hs
    unfold fetch at h
    cases hp : s.pending with
    | nil => simp only [hp, next_inj] at h; exact .inl ⟨hs, rfl, h.symm⟩
    | cons c rest =>
      simp only [hp] at h
      cases hd : decode [c.byte] with
      | error e => simp only [hd, next_inj] at h; exact .inr (.inl ⟨c, rest, e, hs, rfl, hd, h.symm⟩)
      | ok p =>
        obtain ⟨i, l⟩ := p
        simp only [hd] at h
        exact .inr (.inr (.inl ⟨c, rest, i, l, hs, rfl, hd, h⟩))
  · rename_i hs
    exact .inr (.inr (.inr ⟨hs, by simpa using h.symm⟩))

/-- Every operation answers a next state: there is no other outcome (R200). -/
theorem exec_next (i : Instr) (s : State) : ∃ t, exec i s = .next t := by
  cases i with
  | buildreport e =>
    simp only [exec, execBuildreport]
    split
    · exact ⟨_, rfl⟩
    · split <;> exact ⟨_, rfl⟩
  | _ => exact ⟨_, rfl⟩

/-- When BUILDREPORT's operand check turns the command away (R163). -/
theorem outTooShort_iff (e : Bool) (s : State) : outTooShort e s = true ↔ e = true ∧ (outBytes s).length < 3 := by
  rw [outTooShort, Bool.and_eq_true, decide_eq_true_eq]; rfl

/-- When it lets it through. -/
theorem outTooShort_false_iff (e : Bool) (s : State) : outTooShort e s = false ↔ (e = true → 3 ≤ (outBytes s).length) := by
  rw [← Bool.not_eq_true, outTooShort_iff, not_and, not_lt]

/-- The next position of S16 (R123). -/
theorem nextIndex_val (i : Fin 9) (h : i.val < 8) : (nextIndex i).val = i.val + 1 := by simp [nextIndex, h]

/-- BUILDREPORT rejects, changing nothing but the replies; or exports and commits; or, with no buffer, commits. -/
theorem execBuildreport_cases {e : Bool} {s t : State} (h : execBuildreport e s = .next t) :
    (outTooShort e s = true ∧ t = reject .bufSize s) ∨
    (e = true ∧ outTooShort e s = false ∧ t = completeExport (commitRead (exportRead s))) ∨
    (e = false ∧ t = complete .unit (commitRead s)) := by
  unfold execBuildreport at h
  split at h
  · exact .inl ⟨‹_›, by simpa using h.symm⟩
  · split at h
    · exact .inr (.inl ⟨‹_›, Bool.eq_false_iff.mpr ‹_›, by simpa using h.symm⟩)
    · exact .inr (.inr ⟨Bool.eq_false_iff.mpr ‹_›, by simpa using h.symm⟩)

/-- After an export into `b` the host finds the report there (R161, R193). -/
theorem outHead_exportRead (s : State) (b : Nat) (h : s.outRef = some b) :
    outHead (exportRead s) = some (Report.toBytes s.lastRead) := by
  rw [outHead, exportRead_outRef, h, exportRead_mem_some s b h, Option.map_some,
    read_write_nonempty _ (by simp [overwriteHead, Report.toBytes])]
  rfl

/-- INIT writes the lines, the history, `Inited` and the interrupt state, and nothing else (R38, R181, R182). -/
theorem initSteps_eq (s : State) :
    initSteps 12 s =
      { s with
        lines :=
          { loadLvl := .low, clkLvl := .low, clkDir := .input, upDir := .input, downDir := .input, leftDir := .input,
            rightDir := .input, dataDir := .input, loadDir := .output }
        inited := true
        irq := { enabled := s.irq.enabled, saved := none }
        history := s.history ++
          [.dir .up .input, .dir .down .input, .dir .left .input, .dir .right .input, .dir .data .input, .wr .load .low,
            .dir .load .output, .wr .clk .low, .dir .clk .input] } := by
  simp [initSteps, initStep, irqSaveAndMask, irqRestore, markInited, pinDir, pinWrite, Lines.setDir, Lines.setLatch]

/-- A whole UPDATE (R183): READ, ENCODE, store. -/
theorem execUpdate_spec (s : State) :
    ∃ r : ReadRun, r.meetsMinimums ∧ r.TakenFrom s.pins s.draws ∧
      execUpdate s = .next (complete .unit (storeRead (encodeReport r.result) (afterRead r s))) := by
  obtain ⟨r, hm, ht, e⟩ := runRead_spec s
  refine ⟨r, hm, ht, ?_⟩
  rw [execUpdate, finishUpdate, e]
  rfl

/-- What an UPDATE that answered `t` did. -/
theorem execUpdate_inv {s t : State} (h : exec .update s = .next t) :
    ∃ r : ReadRun, r.meetsMinimums ∧ r.TakenFrom s.pins s.draws ∧
      t = complete .unit (storeRead (encodeReport r.result) (afterRead r s)) := by
  obtain ⟨r, hm, ht, e⟩ := execUpdate_spec s
  exact ⟨r, hm, ht, by simpa [exec, e] using h.symm⟩

/-- With twelve answers listed the samples are those. -/
theorem ReadRun.TakenFrom.samples_eq {r : ReadRun} {pins : List Level} {draws : List Nat} (ht : r.TakenFrom pins draws)
    (h : 12 ≤ pins.length) : r.samples = pins.take 12 := by
  apply List.ext_getElem?
  intro k
  by_cases hk : k < 12
  · rw [List.getElem?_take_of_lt hk, ht.samples k _ hk (List.getElem?_eq_getElem (by omega)),
      List.getElem?_eq_getElem (by omega)]
  · rw [List.getElem?_eq_none (by simp [ReadRun.samples, ReadRun.cycles]; omega),
      List.getElem?_eq_none (by simp; omega)]

/-- A step always answers a next state (R200). -/
theorem step_next (s : State) : ∃ t, step s = .next t := by
  unfold step
  split
  · split
    · exact ⟨_, rfl⟩
    · exact ⟨_, rfl⟩
    · exact exec_next _ _
  · exact ⟨_, rfl⟩

/-- One step of an UPDATE in progress leaves the host's side and everything UPDATE does not write alone (R38). -/
theorem updateStep_frame (s : State) :
    (updateStep s).lastReported = s.lastReported ∧ (updateStep s).cold = s.cold ∧ (updateStep s).inited = s.inited ∧
      (updateStep s).irq = s.irq ∧ (updateStep s).mem = s.mem ∧ (updateStep s).pending = s.pending ∧
      (updateStep s).outRef = s.outRef := by
  unfold updateStep readStep
  split
  · rename_i h; simp [h, finishUpdate, readS18]
  · split <;> simp [readS0, readS1, readS2, readS3, readS4, readS5, readS6, readS7, readS8, readS9, readS10, readS11, readS12,
      readS13, readS14, readS15, readS16, readS17, readS18]

/-- LastRead keeps its value until the last step (R184). -/
theorem updateStep_lastRead (s : State) (h : s.reader.seq ≠ .s18) : (updateStep s).lastRead = s.lastRead := by
  rw [updateStep, if_neg h]
  unfold readStep
  split <;> simp [readS0, readS1, readS2, readS3, readS4, readS5, readS6, readS7, readS8, readS9, readS10, readS11, readS12,
    readS13, readS14, readS15, readS16, readS17, readS18]

end Sys2Proof.Machine
end

