-- ==== Sys2Proof/Tests/Slice0.lean ====
section
/-! SUPPORT. Tests. Expected values are those of 95_test_vectors.md (its section is named at each test) or written out by hand
from the rule named; `witness_X` shows a state and operands that meet the hypotheses of `Obligations.X`. -/

namespace Sys2Proof.Tests

open Sys2Proof Sys2Proof.Machine

/-! ## Helpers -/

/-- The samples of one READ in the notation of 95_test_vectors.md, true for level 1. -/
def levels (l : List Bool) : List Level := l.map fun b => if b then .high else .low

/-- A state after reset whose next READ takes these samples, with every delay at its minimum. -/
def withSamples (l : List Bool) : State := { State.reset with pins := levels l, draws := List.replicate 18 0 }

/-- Scenario S7: nothing on the directions, Blue and Start. -/
def s7 : State := withSamples [true, true, true, true, false, true, true, true, true, true, false, true]

/-- Not at the cold start, with these two reports and a poisoned buffer 0 of `n` bytes handed over. -/
def ready (read reported : Report) (n : Nat) : State :=
  { State.reset with
    cold := false, lastRead := read, lastReported := reported, outRef := some 0
    mem := Memory.write [] 0 (List.replicate n 0xEE#8) }

/-- The state with the sequence at `q` and the index at `i`, a low and then high levels waiting, no delay excess. -/
def inRead (q : Machine.Seq) (i : Fin 9) : State :=
  { withSamples [false, true] with reader := { State.reset.reader with seq := q, i := i } }

/-- The state a next outcome holds; the machine has no other outcome. -/
def after (o : Host.Outcome State Fault Refusal) : Option State :=
  match o with
  | .next s => some s
  | .fault _ => none
  | .refused _ => none

/-! ## WellFormed: an ill-formed term for each check (R90) -/

theorem test_wf_refuses_nonzero_z : CommandFields.wellFormed ⟨1#4, 0#1, 3#3⟩ = false := by decide
theorem test_wf_refuses_op7 : CommandFields.wellFormed ⟨0#4, 0#1, 7#3⟩ = false := by decide
theorem test_wf_refuses_flag_off_buildreport : CommandFields.wellFormed ⟨0#4, 1#1, 2#3⟩ = false := by decide
theorem test_wf_accepts_buildreport_with_flag : CommandFields.wellFormed ⟨0#4, 1#1, 3#3⟩ = true := by decide

/-! ## Decoding, words written out from R86 (section 2.8) -/

theorem test_decode_init : decodeByte 0b0000_0_000#8 = .ok .init := by decide
theorem test_decode_update : decodeByte 0b0000_0_001#8 = .ok .update := by decide
theorem test_decode_changed : decodeByte 0b0000_0_010#8 = .ok .changed := by decide
theorem test_decode_buildreport_none : decodeByte 0b0000_0_011#8 = .ok (.buildreport false) := by decide
theorem test_decode_buildreport_buf : decodeByte 0b0000_1_011#8 = .ok (.buildreport true) := by decide
theorem test_decode_reportsize : decodeByte 0b0000_0_100#8 = .ok .getReportsize := by decide
theorem test_decode_descsize : decodeByte 0b0000_0_101#8 = .ok .getDescsize := by decide
theorem test_decode_desc : decodeByte 0b0000_0_110#8 = .ok .getDesc := by decide
theorem test_decode_reserved :
    decodeByte 0x07#8 = .error .reservedOp ∧ decodeByte 0x08#8 = .error .reservedE ∧ decodeByte 0x09#8 = .error .reservedE ∧
      decodeByte 0x0F#8 = .error .reservedOp ∧ decodeByte 0x10#8 = .error .reservedZ ∧ decodeByte 0x13#8 = .error .reservedZ ∧
      decodeByte 0xFF#8 = .error .reservedZ := by decide
theorem test_decode_takes_one_byte : decode [0x01#8, 0x02#8] = .ok (.update, [0x02#8]) := by decide
theorem test_decode_table_word : decodeTableWord 8 0x0B = some (.buildreport true) ∧ decodeTableWord 8 0x0F = none := by decide

/-! ## One step on small states -/

/-- Section 2.7: the lines after INIT; Cold and the buffers unchanged. -/
theorem test_init_lines :
    (after (exec .init State.reset)).map (fun t => (t.lines.loadLvl, t.lines.clkLvl, t.lines.clkDir, t.inited, t.cold,
      t.lastRead)) = some (.low, .low, .input, true, true, ⟨0x00#8, 0x00#8, 0x00#8⟩) := by decide

/-- R181, R188: the host issues INIT with interrupts enabled, or disabled; they stand as before afterwards. -/
theorem test_init_keeps_interrupts :
    (after (exec .init (setInterrupts true State.reset))).map (fun t => t.irq) = some ⟨true, none⟩ ∧
      (after (exec .init (setInterrupts false State.reset))).map (fun t => t.irq) = some ⟨false, none⟩ := by decide

/-- Section 2.7: INIT's line events in order; the interrupt-enable state as before. -/
theorem test_init_events :
    (after (exec .init { State.reset with irq := { enabled := true, saved := none } })).map (fun t => (t.history, t.irq.enabled)) =
      some ([.dir .up .input, .dir .down .input, .dir .left .input, .dir .right .input, .dir .data .input, .wr .load .low,
        .dir .load .output, .wr .clk .low, .dir .clk .input], true) := by decide

/-- Sections 1 (S7) and 2.9: the report, the number of records and the time of them. -/
theorem test_update_blue_start :
    (after (exec .update s7)).map (fun t => (t.lastRead, t.history.length, blockingTime t.history)) =
      some (⟨0x80#8, 0x80#8, 0x12#8⟩, 50, 5200) := by decide +kernel

/-- Section 2.4: Down, Left, Blue, Start; a direction read with swapped axes or the wrong order would show. -/
theorem test_update_down_left :
    (after (exec .update (withSamples
      [true, false, false, true, false, true, true, true, true, true, false, true]))).map State.lastRead =
      some ⟨0x00#8, 0xFF#8, 0x12#8⟩ := by decide +kernel

/-- Section 1 (S8): Up and Down together, on the step that reads Down after Up. -/
theorem test_down_overrides_up :
    (after (step { inRead .s2 0 with reader := { (inRead .s2 0).reader with y := 0x00#8 } })).map (fun t => t.reader.y) =
      some 0xFF#8 := by decide

/-- Section 2.5: the first call is true with equal buffers and clears Cold. -/
theorem test_changed_cold :
    (after (exec .changed State.reset)).map (fun t => (t.replies, t.cold)) = some ([⟨.none, .bit 1#1, none⟩], false) := by decide

/-- Section 2.5: Extra alone counts. -/
theorem test_changed_extra_only :
    (after (exec .changed (ready ⟨0x80#8, 0x80#8, 0x80#8⟩ ⟨0x80#8, 0x80#8, 0x00#8⟩ 3))).map State.replies =
      some [⟨.none, .bit 1#1, none⟩] := by decide

/-- Section 2.6: a buffer of 5 bytes gets three, and the report is committed. -/
theorem test_buildreport_five :
    (after (exec (.buildreport true) (ready ⟨0x80#8, 0x00#8, 0x01#8⟩ ⟨0x80#8, 0x80#8, 0x00#8⟩ 5))).map
      (fun t => (Memory.read t.mem 0, t.lastReported)) =
      some ([0x80#8, 0x00#8, 0x01#8, 0xEE#8, 0xEE#8], ⟨0x80#8, 0x00#8, 0x01#8⟩) := by decide

/-- Section 2.6: a buffer of 2 bytes is turned away with E_BUFSIZE, nothing written, nothing committed. -/
theorem test_buildreport_two :
    (after (exec (.buildreport true) (ready ⟨0x80#8, 0x00#8, 0x01#8⟩ ⟨0x80#8, 0x80#8, 0x00#8⟩ 2))).map
      (fun t => (Memory.read t.mem 0, t.lastReported, t.replies)) =
      some ([0xEE#8, 0xEE#8], ⟨0x80#8, 0x80#8, 0x00#8⟩, [⟨.bufSize, .unit, none⟩]) := by decide

/-- Section 2.7. -/
theorem test_reportsize : (after (exec .getReportsize State.reset)).map State.replies = some [⟨.none, .int 3, none⟩] := by decide

/-- R173: DESC_SIZE is the length of DESC. -/
theorem test_descsize :
    (after (exec .getDescsize State.reset)).map State.replies = some [⟨.none, .int Config.desc.length, none⟩] := rfl

/-- R172. -/
theorem test_desc : (after (exec .getDesc State.reset)).map State.replies = some [⟨.none, .bytes Config.desc, none⟩] := rfl

/-- R201 and R204: a reserved byte ends with code 2 and leaves the lines and registers. -/
theorem test_reserved_step :
    (after (step (State.reset.withFetchWord 8 0x13))).map (fun t => (t.replies.map fun r => r.status.code, t.lines, t.reader)) =
      some ([2], State.reset.lines, State.reset.reader) := by decide

/-- The first instruction after reset: INIT, and BUILDREPORT with the buffer `withFetchWord` hands over. -/
theorem test_first_init :
    after (step (State.reset.withFetchWord 8 0x00)) = after (exec .init State.reset) := by decide
theorem test_first_buildreport :
    (after (step (State.reset.withFetchWord 8 0x0B))).map (fun t => (t.replies, Memory.read t.mem 0)) =
      some ([⟨.none, .unit, some [0x00#8, 0x00#8, 0x00#8]⟩], [0x00#8, 0x00#8, 0x00#8]) := by decide

/-- R188, R193: from reset the host provides a poisoned buffer and issues 0x0B; it finds RESET_BUF in it (uses D7). -/
theorem test_issued_buildreport :
    (after (step (issue [⟨0x0B#8, some 7⟩] (provide 7 [0xEE#8, 0xEE#8, 0xEE#8] State.reset)))).map hostView =
      some [⟨.none, .unit, some [0x00#8, 0x00#8, 0x00#8]⟩] := by decide

/-- R130: bit 0 is on DATA once LOAD was high and low and the settle delay is over; before that nothing is committed to. -/
theorem test_pad_settles :
    padData ⟨true, false, false, false, false, false, false, false⟩ (padPhase [.wr .load .high, .dly 300, .wr .load .low]) =
        none ∧
      padData ⟨true, false, false, false, false, false, false, false⟩
        (padPhase [.wr .load .high, .dly 300, .wr .load .low, .dly 100]) = some .low := by decide

/-- R130: no load pulse, nothing on DATA; INIT has not run, nothing on a direction line either. -/
theorem test_pad_commits_to_nothing :
    padLevel ⟨true, false, false, false, ⟨true, true, true, true, true, true, true, true⟩⟩ true [] .data = none ∧
      padLevel ⟨true, false, false, false, ⟨true, true, true, true, true, true, true, true⟩⟩ false [] .up = none ∧
      padLevel ⟨true, false, false, false, ⟨true, true, true, true, true, true, true, true⟩⟩ true [] .up = some .low := by
  decide

/-- R84 on the byte: section 2.4, RAWBYTE 0x41 goes to 0x12. -/
theorem test_wire_source : (List.range 8).map wireSource = [1, 0, 3, 2, 6, 5, 4, 7] := by decide

/-- R192: POLL with nothing changed answers 0 and leaves the poisoned buffer. -/
theorem test_poll_unchanged :
    (after (poll 0 { ready ⟨0x80#8, 0x80#8, 0x12#8⟩ ⟨0x80#8, 0x80#8, 0x12#8⟩ 3 with pins := s7.pins, draws := s7.draws })).map
      (fun t => (t.replies, Memory.read t.mem 0)) =
      some ([⟨.none, .unit, none⟩, ⟨.none, .bit 0#1, none⟩], [0xEE#8, 0xEE#8, 0xEE#8]) := by decide +kernel

/-! ## Witnesses: the hypotheses of each statement can be met -/

theorem witness_DecoderAgreesWithOperationTable :
    (∃ c i, decodeByte c = .ok i) ∧ (∃ c d, decodeByte c = .error d) ∧ (∃ c, decodeByte c = .ok (.buildreport true)) ∧
      ∃ c, decodeByte c = .ok (.buildreport false) :=
  ⟨⟨0x06#8, .getDesc, rfl⟩, ⟨0x07#8, .reservedOp, rfl⟩, ⟨0x0B#8, rfl⟩, ⟨0x03#8, rfl⟩⟩

theorem witness_StepRunsTheDecodedCommand :
    ∃ (s : State) (c : Command) (rest : List Command) (i : Instr),
      s.reader.seq = .idle ∧ s.pending = c :: rest ∧ decode [c.byte] = .ok (i, []) :=
  ⟨{ State.reset with pending := [⟨0x0B#8, some 4⟩] }, ⟨0x0B#8, some 4⟩, [], .buildreport true, rfl, rfl, rfl⟩

theorem witness_ReservedCommandIsRejectedAndChangesNothing :
    ∃ (s : State) (c : Command) (rest : List Command) (d : DecodeError),
      s.reader.seq = .idle ∧ s.pending = c :: rest ∧ decode [c.byte] = .error d :=
  ⟨{ State.reset with pending := [⟨0x0F#8, none⟩] }, ⟨0x0F#8, none⟩, [], .reservedOp, rfl, rfl, rfl⟩

theorem witness_IdleBlockWithoutCommandsDoesNothing : State.reset.reader.seq = .idle ∧ State.reset.pending = [] := by decide

theorem witness_UpdateReportFollowsTheTwelveSamples :
    s7.pins = [.high, .high, .high, .high, .low, .high, .high, .high, .high, .high, .low, .high] ++ [] := by decide

/-- UPDATE answers a next state from a state whose line registers INIT never set (R40, R185). -/
theorem witness_UpdateBlocksAtLeastItsMinimumTime : ∃ t, exec .update State.reset = .next t := ⟨_, rfl⟩

theorem witness_UpdateIssuesFiftyLineEvents : ∃ t, exec .update s7 = .next t := ⟨_, rfl⟩

theorem witness_UpdateReportDependsOnTheSamplesAlone :
    ∃ s s' t t' : State, s ≠ s' ∧ 12 ≤ s.pins.length ∧ s.pins.take 12 = s'.pins.take 12 ∧ exec .update s = .next t ∧
      exec .update s' = .next t' :=
  ⟨s7, { s7 with cold := false }, _, _, by decide, by decide, by decide, rfl, rfl⟩

theorem witness_ControllerViewDoesNotDependOnLevelsRead :
    ∃ s s' t t' : State, s.pins ≠ s'.pins ∧ 18 ≤ s.draws.length ∧ s.draws.take 18 = s'.draws.take 18 ∧
      exec .update s = .next t ∧ exec .update s' = .next t' ∧ (∃ evs, t.history = s.history ++ evs) ∧
      ∃ evs', t'.history = s'.history ++ evs' :=
  ⟨s7, withSamples (List.replicate 12 true), _, _, by decide, by decide, by decide, rfl, rfl, ⟨_, (List.nil_append _).symm⟩,
    ⟨_, (List.nil_append _).symm⟩⟩

theorem witness_UpdateGivesExactlyTheAxisCodeReports :
    AxesOk ⟨0xFF#8, 0x80#8, 0xFF#8⟩ ∧ AxesOk ⟨0x80#8, 0x00#8, 0x00#8⟩ ∧ ¬AxesOk ⟨0x37#8, 0x80#8, 0x00#8⟩ := by decide

/-- Up, Left, Blue and L pressed on the reference controller. -/
def pad : Pad where
  up := true
  down := false
  left := true
  right := false
  latched := ⟨true, false, false, false, false, true, false, false⟩

/-- `padAgrees` as a computation. -/
def padAgreesBool (p : Pad) (inited : Bool) : List LineEvent → List LineEvent → Bool
  | _, [] => true
  | h, .rd l v :: rest => ((padLevel p inited h l).all fun w => v == w) && padAgreesBool p inited (h ++ [.rd l v]) rest
  | h, .wr l v :: rest => padAgreesBool p inited (h ++ [.wr l v]) rest
  | h, .dir l d :: rest => padAgreesBool p inited (h ++ [.dir l d]) rest
  | h, .dly t :: rest => padAgreesBool p inited (h ++ [.dly t]) rest

theorem padAgrees_of_bool (p : Pad) (inited : Bool) (h evs : List LineEvent) (hb : padAgreesBool p inited h evs = true) :
    padAgrees p inited h evs := by
  induction evs generalizing h with
  | nil => trivial
  | cons e evs ih =>
    cases e with
    | rd l v =>
      rw [padAgreesBool, Bool.and_eq_true] at hb
      exact ⟨fun w hw => by simpa [hw] using hb.1, ih _ hb.2⟩
    | wr l v => exact ih _ hb
    | dir l d => exact ih _ hb
    | dly t => exact ih _ hb

/-- After INIT, with the reference controller's answers listed. -/
def padded : State := { s7 with inited := true, pins := padAnswers pad }

theorem witness_ReferenceControllerReportIsWhatIsPressed :
    ∃ (t : State) (evs : List LineEvent), padded.inited = true ∧ exec .update padded = .next t ∧
      t.history = padded.history ++ evs ∧ padAgrees pad padded.inited padded.history evs :=
  ⟨_, _, rfl, rfl, (List.nil_append _).symm, padAgrees_of_bool _ _ _ _ (by decide +kernel)⟩

theorem witness_ReferenceControllerAnswersAgreeAlongTheRead :
    (padded.inited = true ∧ padded.pins = padAnswers pad ++ []) ∧ s7.inited = false :=
  ⟨⟨rfl, (List.append_nil _).symm⟩, rfl⟩

theorem witness_SamplerStartsBothAxesCentred : (inRead .s0 0).reader.seq = .s0 := rfl
theorem witness_SamplerUpAndDownOverwriteY : (inRead .s1 0).reader.seq = .s1 ∧ (inRead .s2 0).reader.seq = .s2 := by decide
theorem witness_SamplerLeftAndRightOverwriteX : (inRead .s3 0).reader.seq = .s3 ∧ (inRead .s4 0).reader.seq = .s4 := by decide
theorem witness_LoadPulseAndSettleDelay : (inRead .s5 0).reader.seq = .s5 := rfl

/-- The first and the last index of the loop. -/
theorem witness_EachIterationSamplesThenPulsesTheClock :
    ((inRead .s11 0).reader.seq = .s11 ∧ (inRead .s11 0).reader.i.val < 8) ∧
      ((inRead .s11 7).reader.seq = .s11 ∧ (inRead .s11 7).reader.i.val < 8) := by decide

theorem witness_LoopControlCountsToEight :
    ((inRead .s16 0).reader.seq = .s16 ∧ (inRead .s16 0).reader.i.val < 8) ∧
      ((inRead .s16 7).reader.seq = .s16 ∧ (inRead .s16 7).reader.i.val < 8) := by decide

theorem witness_ClockIsReleasedAfterTheLoop : (inRead .s17 8).reader.seq = .s17 := rfl
/-- Before INIT, and after it with the line registers of S9. -/
theorem witness_ClockIsDrivenAndTheLoopEntered :
    (inRead .s9 0).reader.seq = .s9 ∧
      ∃ s : State, s.reader.seq = .s9 ∧ s.inited = true ∧ LinesInv s :=
  ⟨rfl, { inRead .s9 0 with inited := true, lines := linesAt .s9 }, rfl, rfl, fun _ => rfl⟩
theorem witness_ReadResultNamesTheRawBitsInOrder : (inRead .s18 8).reader.seq = .s18 := rfl
theorem witness_WireBitsAreTheRawBitsRemapped : (0 < 8) ∧ (7 < 8) := by decide

theorem witness_FirstChangedAnswersTrueAndClearsColdForGood :
    State.reset.cold = true ∧ ∃ s t : State, s.cold = false ∧ s.pending ≠ [] ∧ step s = .next t :=
  ⟨rfl, { State.reset with cold := false, pending := [⟨0x02#8, none⟩] }, _, rfl, by decide, rfl⟩

/-- Equal reports, and reports that differ in byte 2 only. -/
theorem witness_LaterChangedComparesAllThreeBytes :
    (ready ⟨0x80#8, 0x80#8, 0x00#8⟩ ⟨0x80#8, 0x80#8, 0x00#8⟩ 3).cold = false ∧
      (ready ⟨0x80#8, 0x80#8, 0x80#8⟩ ⟨0x80#8, 0x80#8, 0x00#8⟩ 3).cold = false := by decide

theorem witness_ColdStateLeavesUninitializedOnlyByChanged :
    ∃ s t : State, step s = .next t ∧ coldState t ≠ coldState s ∧ coldState s = .uninitialized ∧
      exec .changed s = .next { t with pending := s.pending } :=
  ⟨{ State.reset with pending := [⟨0x02#8, none⟩] }, _, rfl, by decide, rfl, rfl⟩

theorem witness_OnlyChangedDependsOnCold :
    ∀ i : Instr, i ≠ .changed → ∃ t, exec i (ready ⟨0x80#8, 0x80#8, 0x00#8⟩ ⟨0x80#8, 0x80#8, 0x00#8⟩ 3) = .next t := by
  intro i _
  cases i with
  | buildreport e => cases e <;> exact ⟨_, rfl⟩
  | _ => exact ⟨_, rfl⟩

/-- Exactly 3 bytes, the least the rule lets through. -/
theorem witness_BuildReportExportsThenCommits :
    (ready ⟨0x80#8, 0x00#8, 0x01#8⟩ ⟨0x80#8, 0x80#8, 0x00#8⟩ 3).outRef = some 0 ∧
      3 ≤ (Memory.read (ready ⟨0x80#8, 0x00#8, 0x01#8⟩ ⟨0x80#8, 0x80#8, 0x00#8⟩ 3).mem 0).length := by decide

/-- Five bytes, so that bytes 3 and 4 are there to be kept, and a second buffer. -/
theorem witness_ExportWritesThreeBytesOfOutAndNoOther :
    ∃ s t : State, BuffersInv s ∧ s.outRef = some 0 ∧ 3 ≤ (Memory.read s.mem 0).length ∧
      exec (.buildreport true) s = .next t ∧ Memory.byteAt s.mem 0 4 = some 0xEE#8 ∧ Memory.byteAt s.mem 9 0 = some 0x55#8 :=
  ⟨{ State.reset with outRef := some 0, mem := [(0, List.replicate 5 0xEE#8), (9, [0x55#8])] }, _, by decide, by decide,
    by decide, rfl, by decide, by decide⟩

theorem witness_CommitMakesTheNextChangedFalse :
    3 ≤ (outBytes (ready ⟨0x80#8, 0x00#8, 0x01#8⟩ ⟨0x80#8, 0x80#8, 0x00#8⟩ 3)).length ∧
      (ready ⟨0x80#8, 0x00#8, 0x01#8⟩ ⟨0x80#8, 0x80#8, 0x00#8⟩ 3).cold = false := by decide

/-- No reference, and a buffer of 2 bytes, the longest that is turned away. -/
theorem witness_UndersizedBufferIsRejectedAndChangesNothing :
    State.reset.outRef = none ∧
      ((ready ⟨0x80#8, 0x00#8, 0x01#8⟩ ⟨0x80#8, 0x80#8, 0x00#8⟩ 2).outRef = some 0 ∧
        (Memory.read (ready ⟨0x80#8, 0x00#8, 0x01#8⟩ ⟨0x80#8, 0x80#8, 0x00#8⟩ 2).mem 0).length < 3) := by decide

/-- The axis invariant, in the middle of a READ that is about to store. -/
theorem witness_EveryStepKeepsAxisCodes :
    ∃ s t : State, AxesInv s ∧ s.reader.seq = .s18 ∧ step s = .next t :=
  ⟨{ inRead .s18 8 with reader := { (inRead .s18 8).reader with x := 0xFF#8, y := 0x80#8 } }, _,
    ⟨by decide, by decide, by decide, by decide⟩, rfl, rfl⟩

theorem witness_EveryStepKeepsLinesAtTheirSequencePosition :
    ∃ s t : State, s.inited = true ∧ LinesInv s ∧ s.reader.seq = .s12 ∧ step s = .next t :=
  ⟨{ inRead .s12 3 with inited := true, lines := linesAt .s12 }, _, rfl, fun _ => rfl, rfl, rfl⟩

/-- Index 7 at S16, where the next step leaves the loop. -/
theorem witness_EveryStepKeepsTheLoopIndex :
    ∃ s t : State, IndexInv s ∧ s.reader.seq = .s16 ∧ s.reader.i = 7 ∧ step s = .next t :=
  ⟨inRead .s16 7, _, ⟨fun _ => by decide, fun h => absurd h (by decide)⟩, rfl, rfl, rfl⟩

/-- At S8, where the least delay is the smaller one. -/
theorem witness_EveryStepKeepsDelaysAtTheirMinimum :
    ∃ s t : State, DelaysInv s ∧ s.reader.seq = .s8 ∧ step s = .next t :=
  ⟨{ inRead .s8 0 with history := [.wr .load .low] }, _, ⟨List.isChain_singleton _, fun _ => rfl⟩, rfl, rfl⟩

theorem witness_EveryStepKeepsBuffersCanonical :
    ∃ s t : State, BuffersInv s ∧ s.pending ≠ [] ∧ step s = .next t :=
  ⟨{ State.reset with pending := [⟨0x0B#8, some 1⟩], mem := [(0, [0x11#8]), (1, [0x22#8, 0x33#8, 0x44#8])] }, _, by decide,
    by decide, rfl⟩

/-- An idle block with an UPDATE pending, and a READ at S18, the nearest to its end, and at S0, the farthest. -/
theorem witness_OperationsRunToCompletion :
    (∃ s t : State, s.reader.seq = .idle ∧ s.pending ≠ [] ∧ step s = .next t) ∧ (inRead .s18 8).reader.seq ≠ .idle ∧
      (inRead .s0 0).reader.seq ≠ .idle :=
  ⟨⟨{ s7 with pending := [⟨0x01#8, none⟩] }, _, rfl, by decide, rfl⟩, by decide, by decide⟩

theorem witness_LinesAreQuietBetweenOperations :
    ∃ s t : State, LinesInv s ∧ s.inited = true ∧ s.reader.seq = .idle ∧ step s = .next t :=
  ⟨{ s7 with inited := true, lines := linesAt .idle, pending := [⟨0x01#8, none⟩] }, _, fun _ => rfl, rfl, rfl, rfl⟩

theorem witness_HistoryOnlyGrows : ∃ s t : State, s.history ≠ [] ∧ step s = .next t :=
  ⟨{ inRead .s5 0 with history := [.rd .right .high] }, _, by decide, rfl⟩

/-- Every operation answers, BUILDREPORT in both forms. -/
theorem witness_OperationsWriteOnlyTheirColumn :
    ∀ i : Instr, ∃ t, exec i (ready ⟨0x80#8, 0x00#8, 0x01#8⟩ ⟨0x80#8, 0x80#8, 0x00#8⟩ 3) = .next t := by
  intro i
  cases i with
  | buildreport e => cases e <;> exact ⟨_, rfl⟩
  | _ => exact ⟨_, rfl⟩

theorem witness_LastReportedChangesOnlyByCommit :
    ∃ s t : State, step s = .next t ∧ t.lastReported ≠ s.lastReported :=
  ⟨{ ready ⟨0x80#8, 0x00#8, 0x01#8⟩ ⟨0x80#8, 0x80#8, 0x00#8⟩ 3 with pending := [⟨0x03#8, none⟩] }, _, rfl, by decide⟩

/-- By UPDATE taken as a command, and by the last step of one. -/
theorem witness_LastReadChangesOnlyByUpdate :
    (∃ s t : State, step s = .next t ∧ t.lastRead ≠ s.lastRead ∧ s.reader.seq = .idle) ∧
      ∃ s t : State, step s = .next t ∧ t.lastRead ≠ s.lastRead ∧ s.reader.seq = .s18 :=
  ⟨⟨{ s7 with pending := [⟨0x01#8, none⟩] }, _, rfl, by decide +kernel, rfl⟩,
    ⟨{ inRead .s18 8 with reader := { (inRead .s18 8).reader with x := 0xFF#8, y := 0x80#8 } }, _, rfl, by decide, rfl⟩⟩

theorem witness_PollCommitsAndExportsTheReport :
    BuffersInv (ready ⟨0x80#8, 0x00#8, 0x01#8⟩ ⟨0x80#8, 0x80#8, 0x00#8⟩ 3) ∧
      3 ≤ (Memory.read (ready ⟨0x80#8, 0x00#8, 0x01#8⟩ ⟨0x80#8, 0x80#8, 0x00#8⟩ 3).mem 0).length := by decide

theorem witness_InitMasksInterruptsOverItsLineEvents :
    (1 ≤ 1 ∧ 1 ≤ 10) ∧ (1 ≤ 10 ∧ 10 ≤ 10) ∧ (11 ≤ 11 ∧ 11 ≤ 12) ∧
      ([.dir .up .input, .dir .down .input, .dir .left .input, .dir .right .input, .dir .data .input, .wr .load .low,
        .dir .load .output, .wr .clk .low, .dir .clk .input] : List LineEvent)[8]? = some (.dir .clk .input) := by decide

/-- BUILDREPORT into buffer 0 pending; the two blocks differ in the buffer's contents. -/
theorem witness_HostSeesOnlyCommandsLengthsAndAnswers :
    ∃ s s' t t' : State, s.mem ≠ s'.mem ∧ s.reader.seq = .idle ∧ s'.reader.seq = .idle ∧ s.pending = s'.pending ∧
      s.pending ≠ [] ∧ hostView s = hostView s' ∧ s.lastRead = s'.lastRead ∧ s.lastReported = s'.lastReported ∧
      s.cold = s'.cold ∧ (∀ b, (Memory.read s.mem b).length = (Memory.read s'.mem b).length) ∧
      12 * s.pending.length ≤ s.pins.length ∧
      s.pins.take (12 * s.pending.length) = s'.pins.take (12 * s.pending.length) ∧
      Host.Core.run Sys2Proof.core 1 s = .next t ∧ Host.Core.run Sys2Proof.core 1 s' = .next t' := by
  refine ⟨{ s7 with pending := [⟨0x0B#8, some 0⟩], mem := [(0, [0xEE#8, 0xEE#8, 0xEE#8])] },
    { s7 with pending := [⟨0x0B#8, some 0⟩], mem := [(0, [0x11#8, 0x11#8, 0x11#8])] }, _, _, by decide, rfl, rfl, rfl, by decide,
    rfl, rfl, rfl, rfl, fun b => ?_, by decide, by decide, rfl, rfl⟩
  simp only [Memory.read]
  split <;> rfl

/-- The two blocks read different levels. -/
theorem witness_ControllerSeesOnlyCommandsAndDelays :
    ∃ s s' t t' : State, s.pins ≠ s'.pins ∧ s.reader.seq = .idle ∧ s'.reader.seq = .idle ∧ s.pending = s'.pending ∧
      s.pending ≠ [] ∧ controllerView s.history = controllerView s'.history ∧ 18 * s.pending.length ≤ s.draws.length ∧
      s.draws.take (18 * s.pending.length) = s'.draws.take (18 * s.pending.length) ∧
      Host.Core.run Sys2Proof.core 1 s = .next t ∧ Host.Core.run Sys2Proof.core 1 s' = .next t' :=
  ⟨{ s7 with pending := [⟨0x01#8, none⟩] }, { withSamples (List.replicate 12 true) with pending := [⟨0x01#8, none⟩] }, _, _,
    by decide, rfl, rfl, rfl, by decide, rfl, by decide, by decide, rfl, rfl⟩

end Sys2Proof.Tests
end

section
/-! PROOFS. The flag `Cold` (10_state.md R23, R24): which operations and which steps write it. -/

namespace Sys2Proof.Machine

/-! ## The two-state reading -/

theorem coldState_eq_uninitialized_iff (s : State) : coldState s = .uninitialized ↔ s.cold = true := by
  cases h : s.cold <;> simp [coldState, h]

theorem coldState_eq_ready_iff (s : State) : coldState s = .ready ↔ s.cold = false := by
  cases h : s.cold <;> simp [coldState, h]

theorem coldState_congr {s t : State} (h : t.cold = s.cold) : coldState t = coldState s := by
  rw [coldState, coldState, h]

/-! ## Cold under an operation -/

/-- CHANGED leaves Cold clear, whatever it was (R151). -/
theorem exec_changed_cold {s t : State} (h : exec .changed s = .next t) : t.cold = false := by
  have ht : complete (.bit (boolBit (changedAnswer s))) (clearCold s) = t := next_inj.mp h
  rw [← ht, complete_cold, clearCold_cold]

/-- BUILDREPORT keeps Cold: in a rejection, an export and a commit alike. -/
theorem exec_buildreport_cold {e : Bool} {s t : State} (h : exec (.buildreport e) s = .next t) : t.cold = s.cold := by
  obtain ⟨-, rfl⟩ | ⟨-, -, rfl⟩ | ⟨-, rfl⟩ := execBuildreport_cases h <;> simp

/-- Every operation but CHANGED keeps Cold (R23). -/
theorem exec_cold_of_ne_changed {i : Instr} {s t : State} (hi : i ≠ .changed) (h : exec i s = .next t) :
    t.cold = s.cold := by
  cases i with
  | init =>
    have ht : complete .unit (initSteps 12 s) = t := next_inj.mp h
    rw [← ht, complete_cold, initSteps_eq]
  | update =>
    obtain ⟨r, -, -, rfl⟩ := execUpdate_inv h
    rfl
  | changed => exact absurd rfl hi
  | buildreport e => exact exec_buildreport_cold h
  | getReportsize => rw [← next_inj.mp h, complete_cold]
  | getDescsize => rw [← next_inj.mp h, complete_cold]
  | getDesc => rw [← next_inj.mp h, complete_cold]

/-! ## Cold under a step -/

/-- The decoder takes the one byte of a command and leaves nothing (R86). -/
theorem decode_singleton_rest {c : Byte} {i : Instr} {l : List Byte} (h : decode [c] = .ok (i, l)) : l = [] := by
  rw [decode_cons] at h
  cases hd : decodeByte c with
  | error e => simp [hd, Except.map] at h
  | ok j =>
    simp only [hd, Except.map, Except.ok.injEq, Prod.mk.injEq] at h
    exact h.2.symm

/-- A step of an UPDATE in progress keeps Cold (R38). -/
theorem updateStep_cold (s : State) : (updateStep s).cold = s.cold := by
  obtain ⟨-, hcold, -⟩ := updateStep_frame s
  exact hcold

/-- A step keeps Cold, unless the oldest command is CHANGED, which leaves it clear (R24). -/
theorem step_cold_cases {s t : State} (h : step s = .next t) :
    t.cold = s.cold ∨
      t.cold = false ∧ ∃ c rest, s.pending = c :: rest ∧ decode [c.byte] = .ok (.changed, []) := by
  obtain ⟨-, -, rfl⟩ | ⟨c, rest, e, -, -, -, rfl⟩ | ⟨c, rest, i, l, -, hp, hd, he⟩ | ⟨-, rfl⟩ := step_cases h
  case inl => exact .inl rfl
  case inr.inl => exact .inl rfl
  case inr.inr.inl =>
    by_cases hi : i = .changed
    · subst hi
      obtain rfl := decode_singleton_rest hd
      exact .inr ⟨exec_changed_cold he, c, rest, hp, hd⟩
    · exact .inl ((exec_cold_of_ne_changed hi he).trans (takeCommand_cold c rest s))
  case inr.inr.inr => exact .inl (updateStep_cold s)

/-- A step that moves the two-state machine takes it from `Uninitialized` to `Ready`, by a CHANGED (R24). -/
theorem step_coldState_transition {s t : State} (h : step s = .next t) (hne : coldState t ≠ coldState s) :
    coldState s = .uninitialized ∧ coldState t = .ready ∧
      ∃ c rest, s.pending = c :: rest ∧ decode [c.byte] = .ok (.changed, []) := by
  obtain hkeep | ⟨ht, hchanged⟩ := step_cold_cases h
  · exact absurd (coldState_congr hkeep) hne
  · have hs : s.cold = true := by
      by_contra hs
      exact hne (coldState_congr (ht.trans (Bool.eq_false_iff.mpr hs).symm))
    exact ⟨(coldState_eq_uninitialized_iff s).mpr hs, (coldState_eq_ready_iff t).mpr ht, hchanged⟩

/-- Settles O34: a step writes Cold only by way of CHANGED, which clears it. -/
theorem coldStateLeavesUninitializedOnlyByChanged : Obligations.ColdStateLeavesUninitializedOnlyByChanged :=
  ⟨coldState_eq_uninitialized_iff, coldState_eq_ready_iff, fun _ _ => step_coldState_transition,
    fun _ t _ h => (coldState_eq_ready_iff t).mpr (exec_changed_cold h)⟩

end Sys2Proof.Machine
end

section
/-! PROOFS. One sequence step of a READ (40_reader.md R111): what `step` does at the positions that centre the axes, sample Up
and Down, and return the result. -/

namespace Sys2Proof.Machine

/-! ## The step at a position of the sequence -/

/-- Inside a READ a step is one step of the UPDATE in progress (R187). -/
theorem step_eq_updateStep {s : State} (hs : s.reader.seq ≠ .idle) : step s = .next (updateStep s) := by
  rw [step, if_neg hs]

/-- Before its last position it is one step of the sequence and no more. -/
theorem step_eq_readStep {s : State} (hidle : s.reader.seq ≠ .idle) (hlast : s.reader.seq ≠ .s18) :
    step s = .next (readStep s) := by
  rw [step_eq_updateStep hidle, updateStep, if_neg hlast]

theorem readStep_of_seq_s0 {s : State} (hs : s.reader.seq = .s0) : readStep s = readS0 s := by simp only [readStep, hs]
theorem readStep_of_seq_s1 {s : State} (hs : s.reader.seq = .s1) : readStep s = readS1 s := by simp only [readStep, hs]
theorem readStep_of_seq_s2 {s : State} (hs : s.reader.seq = .s2) : readStep s = readS2 s := by simp only [readStep, hs]
theorem readStep_of_seq_s18 {s : State} (hs : s.reader.seq = .s18) : readStep s = readS18 s := by simp only [readStep, hs]

/-- The last position also ends the UPDATE: the result is encoded, stored and answered (R125, R183). -/
theorem step_of_seq_s18 {s : State} (hs : s.reader.seq = .s18) : step s = .next (finishUpdate (readS18 s)) := by
  rw [step_eq_updateStep (by simp [hs]), updateStep, if_pos hs, readStep_of_seq_s18 hs]

/-- A PinRead returns the answer the environment has listed next, on whatever line (R55). -/
theorem pinAnswer_answersNext (l : Line) (s : State) : AnswersNext s (pinAnswer l s) := by
  intro w rest hp
  rw [pinAnswer_eq, hp, answerOf]

/-! ## S0, S1, S2 and S18 -/

/-- Settles O20: S0 is `readS0`, a write of the centre code to both axes. -/
theorem samplerStartsBothAxesCentred : Obligations.SamplerStartsBothAxesCentred := by
  intro s hs
  rw [step_eq_readStep (by simp [hs]) (by simp [hs]), readStep_of_seq_s0 hs]
  rfl

/-- Settles O21: the sample of each step is the level its PinRead returns. -/
theorem samplerUpAndDownOverwriteY : Obligations.SamplerUpAndDownOverwriteY := by
  constructor
  · intro s hs
    refine ⟨pinAnswer .up s, pinAnswer_answersNext .up s, ?_⟩
    rw [step_eq_readStep (by simp [hs]) (by simp [hs]), readStep_of_seq_s1 hs]
    rfl
  · intro s hs
    refine ⟨pinAnswer .down s, pinAnswer_answersNext .down s, ?_⟩
    rw [step_eq_readStep (by simp [hs]) (by simp [hs]), readStep_of_seq_s2 hs]
    rfl

/-- Settles O28: the result stored at S18 is `readResult` of the registers as S18 finds them. -/
theorem readResultNamesTheRawBitsInOrder : Obligations.ReadResultNamesTheRawBitsInOrder := by
  intro s hs
  rw [step_of_seq_s18 hs]
  rfl

end Sys2Proof.Machine
end

section
/-! PROOFS. The blocking time of a READ (40_reader.md R129): the trace is four direction samples, the load pulse, eight
iterations and the release of CLK; the time is summed part by part. -/

namespace Sys2Proof.Machine

/-! ## Blocking time -/

@[simp] theorem blockingTime_nil : blockingTime [] = 0 := rfl
@[simp] theorem blockingTime_rd (l : Line) (v : Level) (es : List LineEvent) :
    blockingTime (.rd l v :: es) = blockingTime es := rfl
@[simp] theorem blockingTime_wr (l : Line) (v : Level) (es : List LineEvent) :
    blockingTime (.wr l v :: es) = blockingTime es := rfl
@[simp] theorem blockingTime_dir (l : Line) (d : Dir) (es : List LineEvent) :
    blockingTime (.dir l d :: es) = blockingTime es := rfl
@[simp] theorem blockingTime_dly (t : Nat) (es : List LineEvent) :
    blockingTime (.dly t :: es) = t + blockingTime es := rfl

@[simp] theorem blockingTime_append (es fs : List LineEvent) :
    blockingTime (es ++ fs) = blockingTime es + blockingTime fs := by
  induction es with
  | nil => simp
  | cons e es ih => cases e <;> simp [ih, Nat.add_assoc]

/-! ## The iterations -/

/-- An iteration blocks for at least 600 microseconds (R122, R129). -/
theorem BitCycle.meetsMinimums.le_blockingTime_events {c : BitCycle} (hc : c.meetsMinimums) :
    600 ≤ blockingTime c.events := by
  have hHigh : 300 ≤ c.tHigh := hc.1
  have hLow : 300 ≤ c.tLow := hc.2
  simp only [BitCycle.events, blockingTime_rd, blockingTime_wr, blockingTime_dly, blockingTime_nil]
  omega

theorem le_blockingTime_flatMap_events {cs : List BitCycle} (hcs : ∀ c ∈ cs, c.meetsMinimums) :
    600 * cs.length ≤ blockingTime (cs.flatMap BitCycle.events) := by
  induction cs with
  | nil => simp
  | cons c cs ih =>
    have hc := (hcs c List.mem_cons_self).le_blockingTime_events
    have hrest := ih fun d hd => hcs d (List.mem_cons_of_mem c hd)
    rw [List.flatMap_cons, blockingTime_append, List.length_cons]
    omega

@[simp] theorem BitCycle.length_events (c : BitCycle) : c.events.length = 5 := rfl

theorem length_flatMap_events (cs : List BitCycle) : (cs.flatMap BitCycle.events).length = 5 * cs.length := by
  induction cs with
  | nil => rfl
  | cons c cs ih => rw [List.flatMap_cons, List.length_append, ih, BitCycle.length_events, List.length_cons]; omega

/-- Cutting the loop's records before iteration `i` leaves the records of the iterations before it. -/
theorem take_flatMap_events (cs : List BitCycle) (i : Nat) :
    (cs.flatMap BitCycle.events).take (5 * i) = (cs.take i).flatMap BitCycle.events := by
  induction i generalizing cs with
  | zero => simp
  | succ i ih =>
    cases cs with
    | nil => simp
    | cons c cs =>
      rw [List.flatMap_cons, List.take_succ_cons, List.flatMap_cons, ← ih cs, ← List.take_length_add_append,
        BitCycle.length_events, Nat.mul_succ, Nat.add_comm]

/-- The first record of iteration `i` is its sample (R121, R128). -/
theorem getElem?_flatMap_events (cs : List BitCycle) (i : Nat) :
    (cs.flatMap BitCycle.events)[5 * i]? = cs[i]?.map fun c => .rd .data c.sb := by
  induction i generalizing cs with
  | zero => cases cs <;> rfl
  | succ i ih =>
    cases cs with
    | nil => rfl
    | cons c cs =>
      rw [List.flatMap_cons, List.getElem?_append_right (by simp), BitCycle.length_events, Nat.mul_succ,
        Nat.add_sub_cancel, ih, List.getElem?_cons_succ]

/-! ## The trace of a READ -/

/-- Records 1 to 4: the directions (R128). -/
def ReadRun.directionEvents (r : ReadRun) : List LineEvent :=
  [.rd .up r.su, .rd .down r.sd, .rd .left r.sl, .rd .right r.sr]

/-- Records 5 to 9: from the rise of LOAD to the loop's entry (R118, R119, R128). -/
def ReadRun.loadEvents (r : ReadRun) : List LineEvent :=
  [.wr .load .high, .dly r.tLoad, .wr .load .low, .dly r.tSettle, .dir .clk .output]

theorem ReadRun.trace_eq_append (r : ReadRun) :
    r.trace = r.directionEvents ++
      (r.loadEvents ++ (r.cycles.flatMap BitCycle.events ++ [.dir .clk .input])) := rfl

/-- The load pulse and the settle delay block for at least 400 microseconds (R118, R129). -/
theorem ReadRun.meetsMinimums.le_blockingTime_loadEvents {r : ReadRun} (hr : r.meetsMinimums) :
    400 ≤ blockingTime r.loadEvents := by
  have hLoad : 300 ≤ r.tLoad := hr.1
  have hSettle : 100 ≤ r.tSettle := hr.2.1
  simp only [ReadRun.loadEvents, blockingTime_wr, blockingTime_dly, blockingTime_dir, blockingTime_nil]
  omega

theorem ReadRun.meetsMinimums.cycles {r : ReadRun} (hr : r.meetsMinimums) : ∀ c ∈ r.cycles, c.meetsMinimums := hr.2.2

/-- A READ blocks for at least 5200 microseconds (R129). -/
theorem ReadRun.meetsMinimums.le_blockingTime_trace {r : ReadRun} (hr : r.meetsMinimums) :
    5200 ≤ blockingTime r.trace := by
  have hload := hr.le_blockingTime_loadEvents
  have hloop : 600 * 8 ≤ blockingTime (r.cycles.flatMap BitCycle.events) := le_blockingTime_flatMap_events hr.cycles
  simp only [r.trace_eq_append, blockingTime_append]
  omega

/-- From the rise of LOAD to sample `i`: the load pulse and the iterations before `i` (R128). -/
theorem ReadRun.trace_from_load_to_sample (r : ReadRun) {i : Nat} (hi : i ≤ 8) :
    (r.trace.take (9 + 5 * i)).drop 4 = r.loadEvents ++ (r.cycles.take i).flatMap BitCycle.events := by
  have hlen : 5 * i ≤ (r.cycles.flatMap BitCycle.events).length := by
    rw [length_flatMap_events]; exact Nat.mul_le_mul_left 5 hi
  have hcut : 9 + 5 * i - 4 = r.loadEvents.length + 5 * i := by
    rw [show r.loadEvents.length = 5 from rfl]; omega
  have hdrop : r.trace.drop 4 = r.loadEvents ++ (r.cycles.flatMap BitCycle.events ++ [.dir .clk .input]) := by
    rw [r.trace_eq_append]; rfl
  rw [List.drop_take, hdrop, hcut, List.take_length_add_append,
    List.take_append_of_le_length hlen, take_flatMap_events]

/-- Sample `i` is taken at least `400 + 600 i` microseconds after LOAD rose (R129). -/
theorem ReadRun.meetsMinimums.le_blockingTime_to_sample {r : ReadRun} (hr : r.meetsMinimums) {i : Nat} (hi : i ≤ 8) :
    400 + 600 * i ≤ blockingTime ((r.trace.take (9 + 5 * i)).drop 4) := by
  have hload := hr.le_blockingTime_loadEvents
  have hloop : 600 * (r.cycles.take i).length ≤ blockingTime ((r.cycles.take i).flatMap BitCycle.events) :=
    le_blockingTime_flatMap_events fun c hc => hr.cycles c (List.mem_of_mem_take hc)
  rw [List.length_take_of_le (show i ≤ r.cycles.length from hi)] at hloop
  rw [r.trace_from_load_to_sample hi, blockingTime_append]
  omega

/-- Record `10 + 5 i` is sample `i` (R128). -/
theorem ReadRun.trace_sample (r : ReadRun) {i : Nat} (hi : i < 8) : ∃ v, r.trace[9 + 5 * i]? = some (.rd .data v) := by
  have hi' : i < r.cycles.length := hi
  refine ⟨r.cycles[i].sb, ?_⟩
  have hlen : 5 * i < (r.cycles.flatMap BitCycle.events).length := by
    rw [length_flatMap_events]; omega
  have hskip : r.trace[9 + 5 * i]? = (r.cycles.flatMap BitCycle.events ++ [.dir .clk .input])[5 * i]? := by
    rw [Nat.add_comm]; rfl
  rw [hskip, List.getElem?_append_left hlen, getElem?_flatMap_events, List.getElem?_eq_getElem hi', Option.map_some]

/-- Settles O12: the records an UPDATE adds are the trace of a READ that meets its minimum delays. -/
theorem updateBlocksAtLeastItsMinimumTime : Obligations.UpdateBlocksAtLeastItsMinimumTime := by
  intro s t h
  obtain ⟨r, hr, -, rfl⟩ := execUpdate_inv h
  exact ⟨r.trace, rfl, rfl, hr.le_blockingTime_trace, rfl,
    fun i hi => ⟨r.trace_sample hi, hr.le_blockingTime_to_sample hi.le⟩⟩

end Sys2Proof.Machine
end

section
/-! PROOFS. The button byte of ENCODE (41_encoder.md R141). Its eight terms occupy eight different bits, so ENCODE has a left
inverse, which reads each button at its bit; the sum and the bijection follow. -/

namespace Sys2Proof.Machine

/-! ## The bits of the button byte -/

/-- A term of a bitwise or has no bit but its own. -/
theorem getLsbD_bitAt {n : Nat} (hn : n < 8) (p : Bool) (k : Nat) :
    (bitAt n p).getLsbD k = (p && decide (k = n)) := by
  have hbit : (BitVec.ofNat 8 (2 ^ n)).getLsbD k = decide (k = n) := by
    rw [BitVec.getLsbD_ofNat, Nat.testBit_two_pow]
    by_cases hk : k = n
    · simp [hk, hn]
    · simp [hk, Ne.symm hk]
  cases p
  case false => simp [bitAt]
  case true => rw [bitAt, if_pos rfl, hbit, Bool.true_and]

theorem buttonByte_eq_bitAt (c : Ctrl) :
    buttonByte c = bitAt 0 c.red ||| bitAt 1 c.blue ||| bitAt 2 c.green ||| bitAt 3 c.yellow ||| bitAt 4 c.start |||
      bitAt 5 c.l ||| bitAt 6 c.r ||| bitAt 7 c.extra := rfl

/-- Bit `k` of the button byte: only the term meant for bit `k` can set it (R141). -/
theorem getLsbD_buttonByte (c : Ctrl) (k : Nat) :
    (buttonByte c).getLsbD k =
      (c.red && decide (k = 0) || c.blue && decide (k = 1) || c.green && decide (k = 2) || c.yellow && decide (k = 3) ||
        c.start && decide (k = 4) || c.l && decide (k = 5) || c.r && decide (k = 6) || c.extra && decide (k = 7)) := by
  simp [buttonByte_eq_bitAt, getLsbD_bitAt]

/-! ## The inverse of ENCODE -/

/-- The state record that ENCODE takes to a report: the axes as they are, each button read at its bit. -/
def ctrlOfReport (r : Report) : Ctrl where
  x := r.xAxis
  y := r.yAxis
  red := r.buttons.getLsbD 0
  blue := r.buttons.getLsbD 1
  green := r.buttons.getLsbD 2
  yellow := r.buttons.getLsbD 3
  start := r.buttons.getLsbD 4
  l := r.buttons.getLsbD 5
  r := r.buttons.getLsbD 6
  extra := r.buttons.getLsbD 7

/-- Every button is read back from the report ENCODE gives. -/
@[simp] theorem ctrlOfReport_encodeReport (c : Ctrl) : ctrlOfReport (encodeReport c) = c := by
  simp only [ctrlOfReport, encodeReport, getLsbD_buttonByte]
  simp

/-- The eight buttons read from a report, each at the weight of its bit, add up to the byte. -/
theorem toNat_buttons (r : Report) :
    r.buttons.toNat = 1 * (ctrlOfReport r).red.toNat + 2 * (ctrlOfReport r).blue.toNat + 4 * (ctrlOfReport r).green.toNat +
      8 * (ctrlOfReport r).yellow.toNat + 16 * (ctrlOfReport r).start.toNat + 32 * (ctrlOfReport r).l.toNat +
      64 * (ctrlOfReport r).r.toNat + 128 * (ctrlOfReport r).extra.toNat := by
  have hbits : Nat.ofBits (fun i : Fin 8 => r.buttons.getLsbD i) = r.buttons.toNat :=
    (Nat.ofBits_testBit r.buttons.toNat 8).trans (Nat.mod_eq_of_lt r.buttons.isLt)
  have hsum : Nat.ofBits (fun i : Fin 8 => r.buttons.getLsbD i) =
      2 * (2 * (2 * (2 * (2 * (2 * (2 * (2 * 0 + (ctrlOfReport r).extra.toNat) + (ctrlOfReport r).r.toNat) +
        (ctrlOfReport r).l.toNat) + (ctrlOfReport r).start.toNat) + (ctrlOfReport r).yellow.toNat) +
        (ctrlOfReport r).green.toNat) + (ctrlOfReport r).blue.toNat) + (ctrlOfReport r).red.toNat := by
    simp only [Nat.ofBits_succ]; rfl
  omega

/-- A report is determined by the buttons read at its bits. -/
theorem ctrlOfReport_injective : Function.Injective ctrlOfReport := by
  intro a b h
  have hx : a.xAxis = b.xAxis := congrArg Ctrl.x h
  have hy : a.yAxis = b.yAxis := congrArg Ctrl.y h
  have hbuttons : a.buttons = b.buttons := BitVec.eq_of_toNat_eq (by rw [toNat_buttons, toNat_buttons, h])
  cases a
  cases b
  rw [Report.mk.injEq]
  exact ⟨hx, hy, hbuttons⟩

@[simp] theorem encodeReport_ctrlOfReport (r : Report) : encodeReport (ctrlOfReport r) = r :=
  ctrlOfReport_injective (ctrlOfReport_encodeReport (ctrlOfReport r))

/-! ## The laws of the button byte -/

theorem buttonByte_red (c : Ctrl) : (buttonByte c).getLsbD 0 = c.red := congrArg Ctrl.red (ctrlOfReport_encodeReport c)
theorem buttonByte_blue (c : Ctrl) : (buttonByte c).getLsbD 1 = c.blue := congrArg Ctrl.blue (ctrlOfReport_encodeReport c)
theorem buttonByte_green (c : Ctrl) : (buttonByte c).getLsbD 2 = c.green := congrArg Ctrl.green (ctrlOfReport_encodeReport c)
theorem buttonByte_yellow (c : Ctrl) : (buttonByte c).getLsbD 3 = c.yellow :=
  congrArg Ctrl.yellow (ctrlOfReport_encodeReport c)
theorem buttonByte_start (c : Ctrl) : (buttonByte c).getLsbD 4 = c.start := congrArg Ctrl.start (ctrlOfReport_encodeReport c)
theorem buttonByte_l (c : Ctrl) : (buttonByte c).getLsbD 5 = c.l := congrArg Ctrl.l (ctrlOfReport_encodeReport c)
theorem buttonByte_r (c : Ctrl) : (buttonByte c).getLsbD 6 = c.r := congrArg Ctrl.r (ctrlOfReport_encodeReport c)
theorem buttonByte_extra (c : Ctrl) : (buttonByte c).getLsbD 7 = c.extra := congrArg Ctrl.extra (ctrlOfReport_encodeReport c)

/-- The or of the eight terms is their sum (R141). -/
theorem toNat_buttonByte (c : Ctrl) :
    (buttonByte c).toNat = 1 * c.red.toNat + 2 * c.blue.toNat + 4 * c.green.toNat + 8 * c.yellow.toNat +
      16 * c.start.toNat + 32 * c.l.toNat + 64 * c.r.toNat + 128 * c.extra.toNat := by
  have h := toNat_buttons (encodeReport c)
  rwa [ctrlOfReport_encodeReport] at h

/-- For any axes, one combination of buttons and no other gives the byte `b` (R141). -/
theorem existsUnique_buttonByte_eq (x y b : Byte) : ∃! c : Ctrl, c.x = x ∧ c.y = y ∧ buttonByte c = b := by
  refine ⟨ctrlOfReport ⟨x, y, b⟩, ⟨rfl, rfl, congrArg Report.buttons (encodeReport_ctrlOfReport ⟨x, y, b⟩)⟩, ?_⟩
  rintro c ⟨rfl, rfl, rfl⟩
  exact (ctrlOfReport_encodeReport c).symm

/-- Settles O29: ENCODE and `ctrlOfReport` are inverse to each other, and a byte is the sum of its bits. -/
theorem buttonByteIsABijectionInWireOrder : Obligations.ButtonByteIsABijectionInWireOrder :=
  ⟨fun c => ⟨buttonByte_red c, buttonByte_blue c, buttonByte_green c, buttonByte_yellow c, buttonByte_start c,
    buttonByte_l c, buttonByte_r c, buttonByte_extra c, toNat_buttonByte c⟩, existsUnique_buttonByte_eq⟩

end Sys2Proof.Machine
end

section
/-! PROOFS. The Change Detector (42_change_detector.md R150 to R152): what CHANGED answers at the cold start and after it. -/

namespace Sys2Proof.Machine

/-! ## The answer -/

/-- Two reports differ exactly when one of their three bytes does (R152). -/
theorem Report.differs_eq_true_iff (a b : Report) :
    Report.differs a b = true ↔ a.xAxis ≠ b.xAxis ∨ a.yAxis ≠ b.yAxis ∨ a.buttons ≠ b.buttons := by
  simp only [Report.differs, Bool.or_eq_true, bne_iff_ne, or_assoc]

/-- At the cold start the answer is true, whatever the buffers hold (R151). -/
theorem changedAnswer_of_cold {s : State} (hs : s.cold = true) : changedAnswer s = true := by
  rw [changedAnswer, if_pos hs]

/-- After the cold start the answer is the comparison of the two buffers (R152). -/
theorem changedAnswer_of_ready {s : State} (hs : s.cold = false) :
    changedAnswer s = Report.differs s.lastRead s.lastReported := by
  rw [changedAnswer, if_neg (ne_true_of_eq_false hs)]

theorem boolBit_eq_ite {p : Bool} {q : Prop} [Decidable q] (h : p = true ↔ q) : boolBit p = if q then 1#1 else 0#1 :=
  if_congr h rfl rfl

/-! ## CHANGED -/

theorem exec_changed (s : State) :
    exec .changed s = .next (complete (.bit (boolBit (changedAnswer s))) (clearCold s)) := rfl

/-- Clearing a clear Cold changes nothing. -/
theorem clearCold_of_ready {s : State} (hs : s.cold = false) : clearCold s = s := by
  rw [clearCold, ← hs]

/-- The first CHANGED (R151). -/
theorem exec_changed_of_cold {s : State} (hs : s.cold = true) :
    exec .changed s = .next (complete (.bit 1#1) (clearCold s)) := by
  rw [exec_changed, changedAnswer_of_cold hs, boolBit, if_pos rfl]

/-- A later CHANGED only answers (R152). -/
theorem exec_changed_of_ready {s : State} (hs : s.cold = false) :
    exec .changed s = .next (complete (.bit (boolBit (Report.differs s.lastRead s.lastReported))) s) := by
  rw [exec_changed, changedAnswer_of_ready hs, clearCold_of_ready hs]

/-- A clear Cold stays clear: a step keeps it or leaves it clear. -/
theorem step_cold_of_ready {s t : State} (hs : s.cold = false) (h : step s = .next t) : t.cold = false := by
  obtain hkeep | ⟨ht, -⟩ := step_cold_cases h
  · exact hkeep.trans hs
  · exact ht

/-- Settles O32: the cold start decides the answer, and no step sets Cold. -/
theorem firstChangedAnswersTrueAndClearsColdForGood : Obligations.FirstChangedAnswersTrueAndClearsColdForGood :=
  ⟨fun _ => exec_changed_of_cold, fun _ _ => step_cold_of_ready⟩

/-- Settles O33: with Cold clear the answer is the comparison, byte by byte, and clearing Cold changes nothing. -/
theorem laterChangedComparesAllThreeBytes : Obligations.LaterChangedComparesAllThreeBytes := by
  intro s hs
  rw [exec_changed_of_ready hs, boolBit_eq_ite (Report.differs_eq_true_iff s.lastRead s.lastReported)]
  rfl

end Sys2Proof.Machine
end

section
/-! PROOFS. The decoder (30_encoding.md R86, R90, R93): it reads exactly the bytes the encoder writes, and refuses exactly the
bytes whose fields are reserved. -/

namespace Sys2Proof

/-! ## Decoding and encoding -/

theorem fieldsOfByte_encodeByte (i : Instr) : fieldsOfByte (encodeByte i) = i.fields :=
  fieldsOfByte_byteOfFields i.fields.z i.fields.e i.fields.op

/-- A byte decodes to the instruction whose command byte it is, and to no other (R86). -/
theorem decodeByte_eq_ok_iff (c : Byte) (i : Instr) : decodeByte c = .ok i ↔ c = encodeByte i := by
  constructor
  · intro h
    have hfields : i.fields = fieldsOfByte c := instrOfFields_eq_ok _ _ _ i h
    rw [encodeByte, hfields, byteOfFields_fieldsOfByte]
  · rintro rfl
    rw [decodeByte, fieldsOfByte_encodeByte, instrOfFields_fields]

/-- The decoder takes the first byte and leaves the rest (R93). -/
theorem decode_cons_eq_ok_iff (c : Byte) (bytes rest : List Byte) (i : Instr) :
    decode (c :: bytes) = .ok (i, rest) ↔ decodeByte c = .ok i ∧ bytes = rest := by
  rw [decode_cons]
  cases decodeByte c with
  | error e => simp [Except.map]
  | ok j => simp [Except.map]

/-- Settles O1: the one byte read is the encoding, and what is left is the rest. -/
theorem decodeReadsExactlyTheEncoding : Obligations.DecodeReadsExactlyTheEncoding := by
  intro bytes rest i
  cases bytes with
  | nil => simp [decode_nil, encode]
  | cons c bytes => rw [decode_cons_eq_ok_iff, decodeByte_eq_ok_iff, encode, List.singleton_append, List.cons.injEq]

/-- Settles O4: each byte is the encoding of its instruction. -/
theorem writtenOutBytesDecodeToTheirInstructions : Obligations.WrittenOutBytesDecodeToTheirInstructions := by
  have decodes (c : Byte) (i : Instr) (h : [c] = encode i) : decode [c] = .ok (i, []) :=
    (decodeReadsExactlyTheEncoding [c] [] i).mpr (by rw [h, List.append_nil])
  exact ⟨decodes _ _ rfl, decodes _ _ rfl, decodes _ _ rfl, decodes _ _ rfl, decodes _ _ rfl, decodes _ _ rfl,
    decodes _ _ rfl, decodes _ _ rfl⟩

/-! ## The operation table -/

/-- The row of an instruction's mnemonic, and no other, selects its command byte (R86). -/
theorem selects_encodeByte (i : Instr) :
    (opTable.filter fun r => r.selects (encodeByte i)).map OpRow.mnemonic = [i.mnemonic] := by
  cases i with
  | init => exact Laws.Encoded.init.2.2
  | update => exact Laws.Encoded.update.2.2
  | changed => exact Laws.Encoded.changed.2.2
  | buildreport e => exact (Laws.Encoded.buildreport e).2.2
  | getReportsize => exact Laws.Encoded.getReportsize.2.2
  | getDescsize => exact Laws.Encoded.getDescsize.2.2
  | getDesc => exact Laws.Encoded.getDesc.2.2

/-- A byte that some row selects decodes. -/
theorem isOk_decodeByte_of_selects :
    ∀ c : Byte, (opTable.any fun r => r.selects c) = true → (decodeByte c).isOk = true := by decide

/-- No row selects a reserved byte (R90). -/
theorem filter_selects_of_error {c : Byte} {d : DecodeError} (h : decodeByte c = .error d) :
    (opTable.filter fun r => r.selects c) = [] := by
  rw [List.filter_eq_nil_iff]
  intro r hr hsel
  have hok := isOk_decodeByte_of_selects c (List.any_eq_true.mpr ⟨r, hr, hsel⟩)
  rw [h] at hok
  exact absurd hok (by simp [Except.isOk, Except.toBool])

/-- The flag E is bit 3 of the command byte (R86). -/
theorem getLsbD_encodeByte_buildreport (e : Bool) : (encodeByte (.buildreport e)).getLsbD 3 = e := by
  cases e <;> rfl

/-- Settles O2: a byte that decodes is an encoding, whose row the table has; a reserved byte meets no row. -/
theorem decoderAgreesWithOperationTable : Obligations.DecoderAgreesWithOperationTable := by
  refine ⟨?_, fun c d => filter_selects_of_error, ?_⟩
  · intro c i h
    rw [(decodeByte_eq_ok_iff c i).mp h]
    exact selects_encodeByte i
  · intro c e h
    rw [(decodeByte_eq_ok_iff c _).mp h, getLsbD_encodeByte_buildreport]

/-! ## The reserved bytes -/

/-- The decoder refuses exactly the fields that are not well formed (R90). -/
theorem instrOfFields_eq_error_iff (f : CommandFields) :
    (∃ d, instrOfFields f = .error d) ↔ f.wellFormed = false := by
  constructor
  · rintro ⟨d, hd⟩
    by_contra hwf
    simp only [CommandFields.wellFormed, Bool.not_eq_false, Bool.and_eq_true] at hwf
    obtain ⟨⟨hz, hop⟩, hflag⟩ := hwf
    simp only [instrOfFields, hz, hop, hflag, Bool.not_true, Bool.false_eq_true, if_false] at hd
    split_ifs at hd
  · intro hwf
    cases hd : instrOfFields f with
    | error d => exact ⟨d, rfl⟩
    | ok i =>
      have hfields : i.fields = f := instrOfFields_eq_ok _ _ _ i hd
      rw [← hfields] at hwf
      exact absurd hwf (ne_false_of_eq_true (instr_wellFormed i))

/-- The three clauses of R90, each on the number the byte stands for. -/
theorem wellFormed_fieldsOfByte_eq_false_iff (c : Byte) :
    (fieldsOfByte c).wellFormed = false ↔
      (c.toNat / 16 ≠ 0 ∨ c.toNat % 8 = 7 ∨ (c.toNat / 8 % 2 = 1 ∧ c.toNat % 8 ≠ 3)) := by
  have hc := c.isLt
  simp only [CommandFields.wellFormed, CommandFields.zeroOk, CommandFields.opOk, CommandFields.flagOk, fieldsOfByte,
    Bool.and_eq_false_iff, Bool.or_eq_false_iff, beq_eq_false_iff_ne, bne_eq_false_iff_eq, ne_eq, ← BitVec.toNat_inj,
    BitVec.extractLsb'_toNat, Nat.shiftRight_eq_div_pow, BitVec.toNat_ofNat]
  omega

/-- Settles O3: the decoder refuses the bytes with reserved fields, and 248 of the 256 table words. -/
theorem reservedBytesAreThoseOfTheRule : Obligations.ReservedBytesAreThoseOfTheRule :=
  ⟨fun c => (instrOfFields_eq_error_iff (fieldsOfByte c)).trans (wellFormed_fieldsOfByte_eq_false_iff c),
    by decide +kernel⟩

end Sys2Proof
end

section
/-! PROOFS. What a command can do: how `step` takes it (45_capability_interface.md R186), the effect of its operation, one case
per way it can end (`ExecEffect`), and the frame of every operation (10_state.md R38). -/

namespace Sys2Proof.Machine

/-! ## The step of an idle block -/

/-- Settles O5: `step` fetches, and the fetch decodes the oldest command's byte. -/
theorem stepRunsTheDecodedCommand : Obligations.StepRunsTheDecodedCommand := by
  intro s c rest i hs hp hd
  simp only [step, hs, if_true, fetch, hp, hd]
  rfl

/-- Settles O6: the fetch finds no instruction, and the rejection only answers. -/
theorem reservedCommandIsRejectedAndChangesNothing : Obligations.ReservedCommandIsRejectedAndChangesNothing := by
  intro s c rest d hs hp hd
  simp only [step, hs, if_true, fetch, hp, hd]
  rfl

/-- Settles O7: the fetch finds nothing. -/
theorem idleBlockWithoutCommandsDoesNothing : Obligations.IdleBlockWithoutCommandsDoesNothing := by
  intro s hs hp
  simp only [step, hs, if_true, fetch, hp]

/-! ## The effect of an operation -/

/-- What the operation `i` can make of the state `s`, one case per way it can end. -/
inductive ExecEffect (s : State) : Instr → State → Prop
  /-- R181: the twelve steps of INIT. -/
  | init : ExecEffect s .init (complete .unit (initSteps 12 s))
  /-- R183: a READ that took `r`, encoded and stored. -/
  | update (r : ReadRun) (hmin : r.meetsMinimums) (htaken : r.TakenFrom s.pins s.draws) :
      ExecEffect s .update (complete .unit (storeRead (encodeReport r.result) (afterRead r s)))
  /-- R150. -/
  | changed : ExecEffect s .changed (complete (.bit (boolBit (changedAnswer s))) (clearCold s))
  /-- R163: no buffer of at least 3 bytes. -/
  | bufSize (hshort : (outBytes s).length < 3) : ExecEffect s (.buildreport true) (reject .bufSize s)
  /-- R161: LastRead written to the buffer `b` of at least 3 bytes, then the commit. -/
  | exported (b : Nat) (href : s.outRef = some b) (hlen : 3 ≤ (Memory.read s.mem b).length) :
      ExecEffect s (.buildreport true) (completeExport (commitRead (exportRead s)))
  /-- R164: the commit alone. -/
  | commit : ExecEffect s (.buildreport false) (complete .unit (commitRead s))
  /-- R171. -/
  | reportsize : ExecEffect s .getReportsize (complete (.int Config.reportSize) s)
  /-- R173. -/
  | descsize : ExecEffect s .getDescsize (complete (.int Config.descSize) s)
  /-- R172. -/
  | desc : ExecEffect s .getDesc (complete (.bytes Config.desc) s)

/-- A buffer handed over is there to be named once its length has been checked. -/
theorem exists_outRef_of_le_length {s : State} (h : 3 ≤ (outBytes s).length) :
    ∃ b, s.outRef = some b ∧ 3 ≤ (Memory.read s.mem b).length := by
  cases href : s.outRef with
  | none => simp [outBytes, href] at h
  | some b => exact ⟨b, rfl, by simpa [outBytes, href] using h⟩

theorem buildreport_effect {e : Bool} {s t : State} (h : exec (.buildreport e) s = .next t) :
    ExecEffect s (.buildreport e) t := by
  obtain ⟨hshort, rfl⟩ | ⟨rfl, hlong, rfl⟩ | ⟨rfl, rfl⟩ := execBuildreport_cases h
  · obtain ⟨rfl, hlen⟩ := (outTooShort_iff e s).mp hshort
    exact .bufSize hlen
  · obtain ⟨b, href, hlen⟩ := exists_outRef_of_le_length ((outTooShort_false_iff true s).mp hlong rfl)
    exact .exported b href hlen
  · exact .commit

/-- An operation that answered `t` had one of these effects. -/
theorem exec_effect {i : Instr} {s t : State} (h : exec i s = .next t) : ExecEffect s i t := by
  cases i with
  | init => rw [← next_inj.mp h]; exact .init
  | update =>
    obtain ⟨r, hmin, htaken, rfl⟩ := execUpdate_inv h
    exact .update r hmin htaken
  | changed => rw [← next_inj.mp h]; exact .changed
  | buildreport e => exact buildreport_effect h
  | getReportsize => rw [← next_inj.mp h]; exact .reportsize
  | getDescsize => rw [← next_inj.mp h]; exact .descsize
  | getDesc => rw [← next_inj.mp h]; exact .desc

/-! ## The state after a READ, field by field -/

@[simp] theorem afterRead_lastRead (r : ReadRun) (s : State) : (afterRead r s).lastRead = s.lastRead := rfl
@[simp] theorem afterRead_lastReported (r : ReadRun) (s : State) : (afterRead r s).lastReported = s.lastReported := rfl
@[simp] theorem afterRead_cold (r : ReadRun) (s : State) : (afterRead r s).cold = s.cold := rfl
@[simp] theorem afterRead_inited (r : ReadRun) (s : State) : (afterRead r s).inited = s.inited := rfl
@[simp] theorem afterRead_lines (r : ReadRun) (s : State) :
    (afterRead r s).lines = { s.lines with loadLvl := .low, clkLvl := .low, clkDir := .input } := rfl
@[simp] theorem afterRead_reader (r : ReadRun) (s : State) :
    (afterRead r s).reader = { x := r.result.x, y := r.result.y, raw := r.raw, i := 8, seq := .idle } := rfl
@[simp] theorem afterRead_irq (r : ReadRun) (s : State) : (afterRead r s).irq = s.irq := rfl
@[simp] theorem afterRead_mem (r : ReadRun) (s : State) : (afterRead r s).mem = s.mem := rfl
@[simp] theorem afterRead_pending (r : ReadRun) (s : State) : (afterRead r s).pending = s.pending := rfl
@[simp] theorem afterRead_outRef (r : ReadRun) (s : State) : (afterRead r s).outRef = s.outRef := rfl
@[simp] theorem afterRead_replies (r : ReadRun) (s : State) : (afterRead r s).replies = s.replies := rfl
@[simp] theorem afterRead_history (r : ReadRun) (s : State) : (afterRead r s).history = s.history ++ r.trace := rfl
@[simp] theorem afterRead_pins (r : ReadRun) (s : State) : (afterRead r s).pins = s.pins.drop 12 := rfl
@[simp] theorem afterRead_draws (r : ReadRun) (s : State) : (afterRead r s).draws = s.draws.drop 18 := rfl

/-! ## The frame of every operation -/

section Frame

variable {i : Instr} {s t : State} (h : exec i s = .next t)
include h

/-- No operation takes a command or a buffer reference of its own. -/
theorem exec_pending_outRef : t.pending = s.pending ∧ t.outRef = s.outRef := by
  cases exec_effect h with
  | init => simp [initSteps_eq]
  | _ => simp

/-- LastRead, READ's registers, the answers and the draws are UPDATE's alone. -/
theorem exec_frame_of_ne_update (hi : i ≠ .update) :
    t.lastRead = s.lastRead ∧ t.reader = s.reader ∧ t.pins = s.pins ∧ t.draws = s.draws := by
  cases exec_effect h with
  | init => simp [initSteps_eq]
  | update => exact absurd rfl hi
  | _ => simp

theorem exec_reader_of_ne_update (hi : i ≠ .update) : t.reader = s.reader := by
  obtain ⟨-, hreader, -, -⟩ := exec_frame_of_ne_update h hi
  exact hreader

/-- LastReported is BUILDREPORT's alone (R22). -/
theorem exec_lastReported_of_ne_buildreport (hi : ∀ e, i ≠ .buildreport e) : t.lastReported = s.lastReported := by
  cases exec_effect h with
  | init => simp [initSteps_eq]
  | bufSize => exact absurd rfl (hi true)
  | exported => exact absurd rfl (hi true)
  | commit => exact absurd rfl (hi false)
  | _ => simp

/-- The caller's buffers are the exporting BUILDREPORT's alone (R61). -/
theorem exec_mem_of_ne_buildreport_true (hi : i ≠ .buildreport true) : t.mem = s.mem := by
  cases exec_effect h with
  | init => simp [initSteps_eq]
  | bufSize => exact absurd rfl hi
  | exported => exact absurd rfl hi
  | _ => simp

/-- The lines and the history are INIT's and UPDATE's alone. -/
theorem exec_lines_history (hinit : i ≠ .init) (hupdate : i ≠ .update) : t.lines = s.lines ∧ t.history = s.history := by
  cases exec_effect h with
  | init => exact absurd rfl hinit
  | update => exact absurd rfl hupdate
  | _ => simp

/-- `Inited` and the interrupt state are INIT's alone (R29, R36). -/
theorem exec_inited_irq (hi : i ≠ .init) : t.inited = s.inited ∧ t.irq = s.irq := by
  cases exec_effect h with
  | init => exact absurd rfl hi
  | _ => simp

/-- No operation stops inside a READ (R127, R187). -/
theorem exec_seq_of_idle (hs : s.reader.seq = .idle) : t.reader.seq = .idle := by
  cases exec_effect h with
  | init => simp [initSteps_eq, hs]
  | update => simp
  | _ => simp [hs]

/-- `Inited` is never cleared (R29). -/
theorem exec_inited_of_inited (hs : s.inited = true) : t.inited = true := by
  cases exec_effect h with
  | init => simp [initSteps_eq]
  | _ => simp [hs]

/-- An operation appends to the history (R71). -/
theorem exec_history_append : ∃ evs, t.history = s.history ++ evs := by
  cases exec_effect h with
  | init => rw [complete_history, initSteps_eq]; exact ⟨_, rfl⟩
  | update r => exact ⟨r.trace, rfl⟩
  | _ => exact ⟨[], by simp⟩

end Frame

/-- Settles O55: column by column, from the effect of each operation. -/
theorem operationsWriteOnlyTheirColumn : Obligations.OperationsWriteOnlyTheirColumn := by
  intro i s t h
  obtain ⟨hpending, houtRef⟩ := exec_pending_outRef h
  refine ⟨hpending, houtRef, exec_frame_of_ne_update h, fun hnone hbuf => ?_, fun hbuf b k => ?_,
    fun hi => exec_cold_of_ne_changed hi h, exec_lines_history h, exec_inited_irq h⟩
  · exact exec_lastReported_of_ne_buildreport h (by rintro (_ | _) <;> assumption)
  · rw [exec_mem_of_ne_buildreport_true h hbuf]

/-! ## INIT -/

/-- Settles O8: the twelve steps, then the reply. -/
theorem initConfiguresLinesAndRestoresInterrupts : Obligations.InitConfiguresLinesAndRestoresInterrupts := by
  intro s
  rw [exec, execInit, initSteps_eq]
  rfl

/-- The line events of `ConfigureLines()` (R182), in order. -/
def configureEvents : List LineEvent :=
  [.dir .up .input, .dir .down .input, .dir .left .input, .dir .right .input, .dir .data .input, .wr .load .low,
    .dir .load .output, .wr .clk .low, .dir .clk .input]

/-- Step `k + 1` of INIT issues the event with index `k` of `ConfigureLines()` and leaves the interrupt state alone. -/
theorem initStep_configure (k : Nat) (e : LineEvent) (s : State) (he : configureEvents[k]? = some e) :
    (initStep (k + 1) s).history = s.history ++ [e] ∧ (initStep (k + 1) s).irq = s.irq := by
  have hk : k < 9 := by
    by_contra hk
    rw [List.getElem?_eq_none (show configureEvents.length ≤ k from Nat.not_lt.mp hk)] at he
    exact Option.some_ne_none e he.symm
  interval_cases k <;> cases he <;> exact ⟨rfl, rfl⟩

/-- From its first step to the last line event INIT runs masked, the prior state held (R68, R181). -/
theorem initSteps_irq_masked (s : State) {k : Nat} (hk : k < 10) :
    (initSteps (k + 1) s).irq = { enabled := false, saved := some s.irq.enabled } := by
  induction k with
  | zero => rfl
  | succ k ih =>
    have hlen : k < configureEvents.length := Nat.lt_of_succ_lt_succ hk
    have hevent : configureEvents[k]? = some configureEvents[k] := List.getElem?_eq_getElem hlen
    exact (initStep_configure k _ (initSteps (k + 1) s) hevent).2.trans (ih (by omega))

/-- The step after the line events puts the prior interrupt state back and drops the copy (R11, R181). -/
theorem initSteps_irq_restored (s : State) : (initSteps 11 s).irq = { enabled := s.irq.enabled, saved := none } := by
  rw [initSteps, initStep, irqRestore_irq, initSteps_irq_masked s (by omega)]
  rfl

/-- Settles O9: the nine middle steps are `ConfigureLines()`, between the step that masks and the one that restores. -/
theorem initMasksInterruptsOverItsLineEvents : Obligations.InitMasksInterruptsOverItsLineEvents := by
  intro s
  refine ⟨rfl, rfl, rfl, rfl, fun k hlo hhi => ?_, fun k e he => ?_, fun k hlo hhi => ?_⟩
  · obtain ⟨k, rfl⟩ := Nat.exists_eq_add_of_le' hlo
    exact initSteps_irq_masked s (by omega)
  · exact (initStep_configure k e (initSteps (k + 1) s) he).1
  · obtain rfl | rfl : k = 11 ∨ k = 12 := by omega
    · exact ⟨initSteps_irq_restored s, rfl, rfl⟩
    · exact ⟨initSteps_irq_restored s, rfl, rfl⟩

end Sys2Proof.Machine
end

section
/-! PROOFS. The steps of READ (40_reader.md R111): how many are left at each position, that the machine runs them one by one and
ends the UPDATE with the last, and what each does from S3 on. -/

namespace Sys2Proof.Machine

/-! ## The steps left -/

/-- How many steps of the sequence are left, the one that `seq` names included: in the loop, what is left of this iteration, six
for each iteration after it, and S17 and S18. -/
def Reader.stepsLeft (r : Reader) : Nat :=
  match r.seq with
  | .idle => 0
  | .s0 => 61
  | .s1 => 60
  | .s2 => 59
  | .s3 => 58
  | .s4 => 57
  | .s5 => 56
  | .s6 => 55
  | .s7 => 54
  | .s8 => 53
  | .s9 => 52
  | .s10 => 51
  | .s11 => 8 + 6 * (7 - r.i.val)
  | .s12 => 7 + 6 * (7 - r.i.val)
  | .s13 => 6 + 6 * (7 - r.i.val)
  | .s14 => 5 + 6 * (7 - r.i.val)
  | .s15 => 4 + 6 * (7 - r.i.val)
  | .s16 => 3 + 6 * (7 - r.i.val)
  | .s17 => 2
  | .s18 => 1

theorem stepsLeft_eq_zero_iff (r : Reader) : r.stepsLeft = 0 ↔ r.seq = .idle := by
  cases hq : r.seq <;> simp [Reader.stepsLeft, hq]

theorem stepsLeft_eq_one_iff (r : Reader) : r.stepsLeft = 1 ↔ r.seq = .s18 := by
  cases hq : r.seq <;> simp [Reader.stepsLeft, hq] <;> omega

theorem seq_ne_idle_of_pos {r : Reader} (h : 0 < r.stepsLeft) : r.seq ≠ .idle :=
  mt (stepsLeft_eq_zero_iff r).mpr (Nat.ne_of_gt h)

theorem seq_ne_s18_of_one_lt {r : Reader} (h : 1 < r.stepsLeft) : r.seq ≠ .s18 :=
  mt (stepsLeft_eq_one_iff r).mpr (Nat.ne_of_gt h)

theorem stepsLeft_le (r : Reader) : r.stepsLeft ≤ 61 := by
  cases hq : r.seq <;> simp only [Reader.stepsLeft, hq] <;> omega

/-- S16 leaves the iterations after this one, or S17 (R123). -/
theorem stepsLeft_readS16 (s : State) : 3 + 6 * (7 - s.reader.i.val) = (readS16 s).reader.stepsLeft + 1 := by
  by_cases hlast : s.reader.i.val < 7
  · have hnext : (nextIndex s.reader.i).val = s.reader.i.val + 1 := nextIndex_val _ (by omega)
    simp only [readS16, hnext, Config.nBits, show s.reader.i.val + 1 < 8 by omega, if_true, Reader.stepsLeft]
    omega
  · have hnext : (nextIndex s.reader.i).val = 8 := by
      obtain hi | hi : s.reader.i.val = 7 ∨ s.reader.i.val = 8 := by omega
      · simp [nextIndex, hi]
      · simp [nextIndex, hi]
    simp only [readS16, hnext, Config.nBits, lt_irrefl, if_false, Reader.stepsLeft]
    omega

/-- Each step of the sequence is one of the steps left. -/
theorem stepsLeft_readStep {s : State} (hs : s.reader.seq ≠ .idle) :
    s.reader.stepsLeft = (readStep s).reader.stepsLeft + 1 := by
  cases hq : s.reader.seq with
  | idle => exact absurd hq hs
  | s11 | s12 | s13 | s14 | s15 =>
    simp only [Reader.stepsLeft, readStep, hq, readS11, readS12, readS13, readS14, readS15]; omega
  | s16 => simpa only [Reader.stepsLeft, readStep, hq] using stepsLeft_readS16 s
  | _ => simp only [Reader.stepsLeft, readStep, hq, readS0, readS1, readS2, readS3, readS4, readS5, readS6, readS7, readS8,
      readS9, readS10, readS17, readS18, Fin.val_zero]

theorem stepsLeft_readSteps {n : Nat} {s : State} (hn : n ≤ s.reader.stepsLeft) :
    (readSteps n s).reader.stepsLeft = s.reader.stepsLeft - n := by
  induction n generalizing s with
  | zero => rfl
  | succ n ih =>
    have hidle : s.reader.seq ≠ .idle := seq_ne_idle_of_pos (by omega)
    have hstep := stepsLeft_readStep hidle
    rw [readSteps, ih (by omega), hstep]
    omega

/-! ## The machine inside a READ -/

theorem coreRun_succ (M : Host.Core) {s t : M.State} (h : M.step s = .next t) (k : Nat) : M.run (k + 1) s = M.run k t := by
  rw [Host.Core.run, h]

theorem run_succ_of_step {s t : State} (h : step s = .next t) (k : Nat) :
    Host.Core.run Sys2Proof.core (k + 1) s = Host.Core.run Sys2Proof.core k t :=
  coreRun_succ Sys2Proof.core h k

/-- Before its last position the machine runs the sequence and no more (R111). -/
theorem run_eq_readSteps {n : Nat} {s : State} (hn : n < s.reader.stepsLeft) :
    Host.Core.run Sys2Proof.core n s = .next (readSteps n s) := by
  induction n generalizing s with
  | zero => rfl
  | succ n ih =>
    have hidle : s.reader.seq ≠ .idle := seq_ne_idle_of_pos (by omega)
    have hlast : s.reader.seq ≠ .s18 := seq_ne_s18_of_one_lt (by omega)
    have hstep := stepsLeft_readStep hidle
    rw [run_succ_of_step (step_eq_readStep hidle hlast), ih (by omega), readSteps]

theorem readSteps_succ (n : Nat) (s : State) : readSteps (n + 1) s = readStep (readSteps n s) := readSteps_add n 1 s

/-- A READ in progress ends, and the UPDATE with it, when the steps left have been taken (R125, R183). -/
theorem run_stepsLeft {s : State} (hs : s.reader.seq ≠ .idle) :
    Host.Core.run Sys2Proof.core s.reader.stepsLeft s = .next (finishUpdate (readSteps s.reader.stepsLeft s)) := by
  obtain ⟨n, hn⟩ := Nat.exists_eq_succ_of_ne_zero (mt (stepsLeft_eq_zero_iff s.reader).mp hs)
  rw [Nat.succ_eq_add_one] at hn
  rw [hn]
  clear hs
  induction n generalizing s with
  | zero =>
    have hlast : s.reader.seq = .s18 := (stepsLeft_eq_one_iff _).mp hn
    rw [run_succ_of_step (step_of_seq_s18 hlast), readSteps, readSteps, readStep_of_seq_s18 hlast]
    rfl
  | succ n ih =>
    have hidle : s.reader.seq ≠ .idle := seq_ne_idle_of_pos (by omega)
    have hlast : s.reader.seq ≠ .s18 := seq_ne_s18_of_one_lt (by omega)
    have hstep := stepsLeft_readStep hidle
    rw [run_succ_of_step (step_eq_readStep hidle hlast), ih (by omega), ← readSteps]

/-- Settles O16: from S0 there are 61 steps left, and UPDATE is those steps with the same ending. -/
theorem sequenceStepsRunTheWholeUpdate : Obligations.SequenceStepsRunTheWholeUpdate := fun s =>
  run_stepsLeft (s := startRead s) (by simp)

/-! ## What a step of READ leaves alone -/

/-- A step of the sequence writes the lines, READ's registers, the history and what the environment listed, and nothing else
(R38, R184). -/
theorem readStep_eq_frame (s : State) :
    readStep s =
      { s with
        lines := (readStep s).lines
        reader := (readStep s).reader
        history := (readStep s).history
        pins := (readStep s).pins
        draws := (readStep s).draws } := by
  cases hq : s.reader.seq <;> simp only [readStep, hq] <;> rfl

@[simp] theorem readStep_lastRead (s : State) : (readStep s).lastRead = s.lastRead := by rw [readStep_eq_frame]
@[simp] theorem readStep_lastReported (s : State) : (readStep s).lastReported = s.lastReported := by rw [readStep_eq_frame]
@[simp] theorem readStep_inited (s : State) : (readStep s).inited = s.inited := by rw [readStep_eq_frame]
@[simp] theorem readStep_mem (s : State) : (readStep s).mem = s.mem := by rw [readStep_eq_frame]
@[simp] theorem readStep_replies (s : State) : (readStep s).replies = s.replies := by rw [readStep_eq_frame]

theorem readSteps_replies (n : Nat) (s : State) : (readSteps n s).replies = s.replies := by
  induction n generalizing s with
  | zero => rfl
  | succ n ih => rw [readSteps, ih, readStep_replies]

/-! ## S3 to S17 -/

theorem readStep_of_seq_s3 {s : State} (hs : s.reader.seq = .s3) : readStep s = readS3 s := by simp only [readStep, hs]
theorem readStep_of_seq_s4 {s : State} (hs : s.reader.seq = .s4) : readStep s = readS4 s := by simp only [readStep, hs]
theorem readStep_of_seq_s16 {s : State} (hs : s.reader.seq = .s16) : readStep s = readS16 s := by simp only [readStep, hs]
theorem readStep_of_seq_s17 {s : State} (hs : s.reader.seq = .s17) : readStep s = readS17 s := by simp only [readStep, hs]

/-- Settles O22: the sample of each step is the level its PinRead returns. -/
theorem samplerLeftAndRightOverwriteX : Obligations.SamplerLeftAndRightOverwriteX := by
  constructor
  · intro s hs
    refine ⟨pinAnswer .left s, pinAnswer_answersNext .left s, ?_⟩
    rw [step_eq_readStep (by simp [hs]) (by simp [hs]), readStep_of_seq_s3 hs]
    rfl
  · intro s hs
    refine ⟨pinAnswer .right s, pinAnswer_answersNext .right s, ?_⟩
    rw [step_eq_readStep (by simp [hs]) (by simp [hs]), readStep_of_seq_s4 hs]
    rfl

/-- The load pulse (R118), after each of its four steps. -/
theorem readSteps_loadPulse {s : State} (hs : s.reader.seq = .s5) :
    readSteps 1 s = readS5 s ∧ readSteps 2 s = readS6 (readS5 s) ∧ readSteps 3 s = readS7 (readS6 (readS5 s)) ∧
      readSteps 4 s = readS8 (readS7 (readS6 (readS5 s))) := by
  have h1 : readSteps 1 s = readS5 s := by simp only [readSteps, readStep, hs]
  have h2 : readSteps 2 s = readS6 (readS5 s) := by rw [readSteps_succ, h1]; rfl
  have h3 : readSteps 3 s = readS7 (readS6 (readS5 s)) := by rw [readSteps_succ, h2]; rfl
  exact ⟨h1, h2, h3, by rw [readSteps_succ, h3]; rfl⟩

/-- Settles O23: the two delays are those S6 and S8 take. -/
theorem loadPulseAndSettleDelay : Obligations.LoadPulseAndSettleDelay := by
  intro s hs
  have hleft : s.reader.stepsLeft = 56 := by simp only [Reader.stepsLeft, hs]
  obtain ⟨h1, h2, h3, h4⟩ := readSteps_loadPulse hs
  refine ⟨delayTime Config.tLoadMin (readS5 s), delayTime Config.tSettleMin (readS7 (readS6 (readS5 s))),
    le_timeOf _ _ _, le_timeOf _ _ _, ?_, ?_, ?_, ?_⟩
  · rw [run_eq_readSteps (by omega), h1]; rfl
  · rw [run_eq_readSteps (by omega), h2]; simp [readS5, readS6, pinWrite, delay, Lines.setLatch]
  · rw [run_eq_readSteps (by omega), h3]; simp [readS5, readS6, readS7, pinWrite, delay, Lines.setLatch]
  · rw [run_eq_readSteps (by omega), h4]
    simp [readS5, readS6, readS7, readS8, pinWrite, delay, Lines.setLatch, ← List.drop_one]

/-- Settles O27: the latch drives the clock line, and after INIT the line invariant says it is low at S9. -/
theorem clockIsDrivenAndTheLoopEntered : Obligations.ClockIsDrivenAndTheLoopEntered := by
  intro s hs
  refine ⟨?_, rfl, fun hinited hlines => ?_⟩
  · rw [run_eq_readSteps (by simp [Reader.stepsLeft, hs])]
    have h1 : readSteps 1 s = readS9 s := by simp only [readSteps, readStep, hs]
    rw [readSteps_succ, h1]
    rfl
  · have hat : s.lines = linesAt .s9 := hs ▸ hlines hinited
    rw [hat]
    rfl

/-- A bit recorded at index `i` is read there, and every other bit as before (R121). -/
theorem get_set (raw : RawBits) {i : Nat} (hi : i < 8) (p : Bool) (k : Nat) :
    RawBits.get (RawBits.set raw i p) k = if k = i then some p else RawBits.get raw k := by
  by_cases hk : k < 8
  · interval_cases i <;> interval_cases k <;> rfl
  · have hne : k ≠ i := by omega
    obtain ⟨j, rfl⟩ := Nat.exists_eq_add_of_le' (Nat.not_lt.mp hk)
    rw [if_neg hne]
    rfl

/-- Settles O24: the sample and the two delays are those S11, S13 and S15 take. -/
theorem eachIterationSamplesThenPulsesTheClock : Obligations.EachIterationSamplesThenPulsesTheClock := by
  intro s hs hi
  have hleft : 5 < s.reader.stepsLeft := by simp only [Reader.stepsLeft, hs]; omega
  refine ⟨pinAnswer .data s, delayTime Config.tClkHMin (readS12 (readS11 s)),
    delayTime Config.tClkLMin (readS14 (readS13 (readS12 (readS11 s)))),
    RawBits.set s.reader.raw s.reader.i.val (pressed (pinAnswer .data s)), pinAnswer_answersNext .data s,
    le_timeOf _ _ _, le_timeOf _ _ _, get_set _ hi _, ?_⟩
  have hsteps : readSteps 5 s = readS15 (readS14 (readS13 (readS12 (readS11 s)))) := by
    rw [readSteps, show readStep s = readS11 s by simp only [readStep, hs]]
    rfl
  rw [run_eq_readSteps hleft, hsteps]
  simp [readS11, readS12, readS13, readS14, readS15, pinRead, pinWrite, delay, Lines.setLatch, ← List.drop_one]

/-- Settles O25: the next index is `nextIndex`, below 8 or 8. -/
theorem loopControlCountsToEight : Obligations.LoopControlCountsToEight := by
  intro s hs hi
  refine ⟨nextIndex s.reader.i, nextIndex_val _ hi, ?_⟩
  rw [step_eq_readStep (by simp [hs]) (by simp [hs]), readStep_of_seq_s16 hs]
  rfl

/-- Settles O26: S17 is `readS17`, a write of the clock line's direction. -/
theorem clockIsReleasedAfterTheLoop : Obligations.ClockIsReleasedAfterTheLoop := by
  intro s hs
  rw [step_eq_readStep (by simp [hs]) (by simp [hs]), readStep_of_seq_s17 hs]
  rfl

end Sys2Proof.Machine
end

section
/-! PROOFS. The invariants (10_state.md section 8): what a predicate has to be kept by for every step to keep it (`StepParts`),
and the five predicates. -/

namespace Sys2Proof.Machine

/-! ## What a step is made of -/

/-- `P` is kept by every part a step is made of: taking a command, rejecting it, every operation but UPDATE, and UPDATE's own
parts, which are the beginning of a READ, each step of its sequence and the store at the end. -/
structure StepParts (P : State → Prop) : Prop where
  take : ∀ c rest s, P s → P (takeCommand c rest s)
  rejected : ∀ code s, P s → P (reject code s)
  exec : ∀ i s t, i ≠ .update → s.reader.seq = .idle → P s → exec i s = .next t → P t
  start : ∀ s, s.reader.seq = .idle → P s → P (startRead s)
  readStep : ∀ s, P s → P (readStep s)
  finish : ∀ s, P s → P (finishUpdate s)

section Parts

variable {P : State → Prop} (hP : StepParts P)
include hP

theorem StepParts.readSteps {s : State} (n : Nat) (hs : P s) : P (readSteps n s) := by
  induction n generalizing s with
  | zero => exact hs
  | succ n ih => exact ih (hP.readStep s hs)

theorem StepParts.updateStep {s : State} (hs : P s) : P (updateStep s) := by
  unfold Machine.updateStep
  split
  · exact hP.finish _ (hP.readStep s hs)
  · exact hP.readStep s hs

theorem StepParts.exec_any {i : Instr} {s t : State} (hidle : s.reader.seq = .idle) (hs : P s)
    (h : Machine.exec i s = .next t) : P t := by
  by_cases hi : i = .update
  · subst hi
    have ht : finishUpdate (runRead s) = t := next_inj.mp h
    rw [← ht]
    exact hP.finish _ (hP.readSteps Config.readStepCount (hP.start s hidle hs))
  · exact hP.exec i s t hi hidle hs h

/-- A predicate that every part keeps is kept by every step. -/
theorem StepParts.step {s t : State} (hs : P s) (h : Machine.step s = .next t) : P t := by
  obtain ⟨-, -, rfl⟩ | ⟨c, rest, e, -, -, -, rfl⟩ | ⟨c, rest, i, l, hidle, -, -, he⟩ | ⟨-, rfl⟩ := step_cases h
  case inl => exact hs
  case inr.inl => exact hP.rejected _ _ (hP.take c rest s hs)
  case inr.inr.inl => exact hP.exec_any (by simpa using hidle) (hP.take c rest s hs) he
  case inr.inr.inr => exact hP.updateStep hs

end Parts

/-! ## Axis codes -/

theorem axisCode_overwriteAxis {code old : Byte} (v : Level) (hcode : AxisCode code) (hold : AxisCode old) :
    AxisCode (overwriteAxis v code old) := by
  unfold overwriteAxis
  split
  · exact hcode
  · exact hold

/-- S0 centres both axes, S1 to S4 write a code or nothing, no other step writes them (R112 to R117). -/
theorem readStep_axisCode {s : State} (hx : AxisCode s.reader.x) (hy : AxisCode s.reader.y) :
    AxisCode (readStep s).reader.x ∧ AxisCode (readStep s).reader.y := by
  cases hq : s.reader.seq with
  | s0 => rw [readStep_of_seq_s0 hq]; exact ⟨.inr (.inl rfl), .inr (.inl rfl)⟩
  | s1 => rw [readStep_of_seq_s1 hq]; exact ⟨hx, axisCode_overwriteAxis _ (.inl rfl) hy⟩
  | s2 => rw [readStep_of_seq_s2 hq]; exact ⟨hx, axisCode_overwriteAxis _ (.inr (.inr rfl)) hy⟩
  | s3 => rw [readStep_of_seq_s3 hq]; exact ⟨axisCode_overwriteAxis _ (.inl rfl) hx, hy⟩
  | s4 => rw [readStep_of_seq_s4 hq]; exact ⟨axisCode_overwriteAxis _ (.inr (.inr rfl)) hx, hy⟩
  | _ => simp only [readStep, hq]; exact ⟨hx, hy⟩

/-- BUILDREPORT copies LastRead to LastReported or leaves it; no other operation but UPDATE writes an axis. -/
theorem exec_axesInv {i : Instr} {s t : State} (hi : i ≠ .update) (hs : AxesInv s) (h : exec i s = .next t) :
    AxesInv t := by
  obtain ⟨hread, hreported, hx, hy⟩ := hs
  cases exec_effect h with
  | update => exact absurd rfl hi
  | init => rw [initSteps_eq]; exact ⟨hread, hreported, hx, hy⟩
  | exported =>
    simp only [AxesInv, completeExport_lastRead, completeExport_lastReported, completeExport_reader, commitRead_lastRead,
      commitRead_lastReported, commitRead_reader, exportRead_lastRead, exportRead_reader]
    exact ⟨hread, hread, hx, hy⟩
  | commit => exact ⟨hread, hread, hx, hy⟩
  | _ => exact ⟨hread, hreported, hx, hy⟩

theorem axesInv_stepParts : StepParts AxesInv where
  take _ _ _ hs := hs
  rejected _ _ hs := hs
  exec _ _ _ hi _ := exec_axesInv hi
  start _ _ hs := hs
  readStep s hs := by
    obtain ⟨hread, hreported, hx, hy⟩ := hs
    obtain ⟨hx', hy'⟩ := readStep_axisCode hx hy
    exact ⟨by rwa [readStep_lastRead], by rwa [readStep_lastReported], hx', hy'⟩
  finish s hs := by
    obtain ⟨-, hreported, hx, hy⟩ := hs
    exact ⟨⟨hx, hy⟩, hreported, hx, hy⟩

/-- Settles O45: every part of a step keeps axis codes. -/
theorem everyStepKeepsAxisCodes : Obligations.EveryStepKeepsAxisCodes := fun _ _ => axesInv_stepParts.step

/-! ## Lines -/

/-- A step of the sequence moves the lines as it moves `seq`: S5, S7, S9, S12, S14 and S17 write one line register each, where
`linesAt` changes, and no other step writes one. -/
theorem readStep_lines {s : State} (hs : s.lines = linesAt s.reader.seq) :
    (readStep s).lines = linesAt (readStep s).reader.seq := by
  cases hq : s.reader.seq with
  | s5 | s7 | s9 | s12 | s14 | s17 =>
    simp only [readStep, hq, readS5, readS7, readS9, readS12, readS14, readS17, pinWrite_lines, pinDir_lines, hs]
    rfl
  | s16 =>
    simp only [readStep, hq, readS16, hs]
    split <;> rfl
  | _ =>
    rw [hq] at hs
    simp only [readStep, hq]
    exact hs

/-- INIT leaves the lines of an idle block; no other operation but UPDATE writes a line or `Inited` (R38, R182). -/
theorem exec_linesInv {i : Instr} {s t : State} (hi : i ≠ .update) (hidle : s.reader.seq = .idle) (hs : LinesInv s)
    (h : exec i s = .next t) : LinesInv t := by
  intro hinited
  rw [exec_reader_of_ne_update h hi]
  by_cases hinit : i = .init
  · subst hinit
    rw [← next_inj.mp h, complete_lines, initSteps_eq, hidle]
    rfl
  · rw [(exec_lines_history h hinit hi).1]
    exact hs ((exec_inited_irq h hinit).1 ▸ hinited)

theorem linesInv_stepParts : StepParts LinesInv where
  take _ _ _ hs := hs
  rejected _ _ hs := hs
  exec _ _ _ := exec_linesInv
  start s hidle hs hinited := by
    rw [startRead_lines, hs hinited, hidle]
    rfl
  readStep s hs hinited := readStep_lines (hs (by rwa [readStep_inited] at hinited))
  finish _ hs := hs

/-- Settles O46: every part of a step keeps the lines at their sequence position. -/
theorem everyStepKeepsLinesAtTheirSequencePosition : Obligations.EveryStepKeepsLinesAtTheirSequencePosition :=
  fun _ _ => linesInv_stepParts.step

/-! ## The loop index -/

/-- S10 enters the loop at 0, S16 counts up and leaves it at 8; no other step writes the index (R120, R123). -/
theorem readStep_indexInv {s : State} (hs : IndexInv s) : IndexInv (readStep s) := by
  obtain ⟨hloop, htail⟩ := hs
  cases hq : s.reader.seq with
  | s16 =>
    have hi : s.reader.i.val < 8 := hloop (by simp [hq])
    have hnext := nextIndex_val _ hi
    rw [readStep_of_seq_s16 hq]
    by_cases hlast : s.reader.i.val + 1 < 8
    · simp [IndexInv, readS16, hnext, Config.nBits, hlast]
    · simp only [IndexInv, readS16, hnext, Config.nBits, hlast, if_false]
      exact ⟨by simp, fun _ => by omega⟩
  | s10 => simp [IndexInv, readStep, hq, readS10]
  | s11 | s12 | s13 | s14 | s15 =>
    have hi : s.reader.i.val < 8 := hloop (by simp [hq])
    simpa [IndexInv, readStep, hq, readS11, readS12, readS13, readS14, readS15] using hi
  | s17 =>
    have hi : s.reader.i.val = 8 := htail (by simp [hq])
    simpa [IndexInv, readStep, hq, readS17] using hi
  | _ => simp [IndexInv, readStep, hq, readS0, readS1, readS2, readS3, readS4, readS5, readS6, readS7, readS8, readS9, readS18]

theorem indexInv_of_reader {s t : State} (hs : IndexInv s) (h : t.reader = s.reader) : IndexInv t := by
  rwa [IndexInv, h]

theorem indexInv_stepParts : StepParts IndexInv where
  take _ _ _ hs := hs
  rejected _ _ hs := hs
  exec _ _ _ hi _ hs h := indexInv_of_reader hs (exec_reader_of_ne_update h hi)
  start _ _ _ := by simp [IndexInv]
  readStep _ := readStep_indexInv
  finish _ hs := hs

/-- Settles O47: every part of a step keeps the loop index. -/
theorem everyStepKeepsTheLoopIndex : Obligations.EveryStepKeepsTheLoopIndex := fun _ _ => indexInv_stepParts.step

/-! ## Delays -/

/-- No line event asks for more than 300 microseconds (R67). -/
theorem minAfter_le (e : LineEvent) : minAfter e ≤ 300 := by
  rcases e with ⟨l, v⟩ | ⟨l, v⟩ | ⟨l, d⟩ | t
  case wr => cases l <;> cases v <;> decide
  all_goals exact Nat.zero_le 300

theorem delayOkAfter_of_not_dly (a : LineEvent) {b : LineEvent} (hb : isDly b = false) : delayOkAfter a b := by
  rintro t rfl
  exact absurd hb (by simp [isDly])

/-- One more event that may follow the last one. -/
theorem isChain_append_singleton {h : List LineEvent} {e : LineEvent} (hh : h.IsChain delayOkAfter)
    (he : ∀ a, h.getLast? = some a → delayOkAfter a e) : (h ++ [e]).IsChain delayOkAfter := by
  refine List.isChain_append.mpr ⟨hh, List.isChain_singleton e, fun a ha b hb => ?_⟩
  obtain rfl : e = b := by simpa using hb
  exact he a ha

/-- Events that are no delays may follow any history. -/
theorem isChain_append_of_not_dly {h evs : List LineEvent} (hh : h.IsChain delayOkAfter)
    (hevs : ∀ e ∈ evs, isDly e = false) : (h ++ evs).IsChain delayOkAfter := by
  induction evs generalizing h with
  | nil => rwa [List.append_nil]
  | cons e evs ih =>
    have hone : (h ++ [e]).IsChain delayOkAfter :=
      isChain_append_singleton hh fun a _ => delayOkAfter_of_not_dly a (hevs e List.mem_cons_self)
    rw [← List.singleton_append, ← List.append_assoc]
    exact ih hone fun e' he' => hevs e' (List.mem_cons_of_mem e he')

/-- A delay of the largest minimum may follow any history; one of T_SETTLE may follow LOAD going low (R67, R118). -/
theorem isChain_append_delay {s : State} {m : Nat} (hh : s.history.IsChain delayOkAfter)
    (hm : ∀ a, s.history.getLast? = some a → minAfter a ≤ m) : (delay m s).history.IsChain delayOkAfter := by
  rw [delay_history]
  refine isChain_append_singleton hh fun a ha t ht => ?_
  cases ht
  exact (hm a ha).trans (le_timeOf _ _ _)

/-- A step of the sequence takes no delay too short: S6, S13 and S15 wait the largest minimum, S8 waits T_SETTLE, which LOAD
going low asks for, and S7 has just driven it low (R118, R122). -/
theorem readStep_delaysInv {s : State} (hs : DelaysInv s) : DelaysInv (readStep s) := by
  obtain ⟨hchain, hlast⟩ := hs
  have hmax (a : LineEvent) (_ : s.history.getLast? = some a) : minAfter a ≤ 300 := minAfter_le a
  cases hq : s.reader.seq with
  | s6 | s13 | s15 =>
    simp only [readStep, hq]
    exact ⟨isChain_append_delay hchain hmax, nofun⟩
  | s8 =>
    have hsettle (a : LineEvent) (ha : s.history.getLast? = some a) : minAfter a ≤ 100 := by
      obtain rfl : .wr .load .low = a := Option.some_inj.mp ((hlast hq).symm.trans ha)
      exact le_rfl
    simp only [readStep, hq]
    exact ⟨isChain_append_delay hchain hsettle, nofun⟩
  | s7 =>
    simp only [readStep, hq]
    exact ⟨isChain_append_of_not_dly hchain (by simp [isDly]), fun _ => List.getLast?_concat⟩
  | s1 | s2 | s3 | s4 | s5 | s9 | s11 | s12 | s14 | s17 =>
    simp only [readStep, hq]
    exact ⟨isChain_append_of_not_dly hchain (by simp [isDly]), nofun⟩
  | s16 =>
    simp only [readStep, hq]
    refine ⟨hchain, fun hseq => ?_⟩
    simp only [readS16] at hseq
    split at hseq <;> cases hseq
  | idle => simp only [readStep, hq]; exact ⟨hchain, hlast⟩
  | s0 | s10 | s18 => simp only [readStep, hq]; exact ⟨hchain, nofun⟩

/-- INIT waits for nothing; no other operation but UPDATE writes the history. -/
theorem exec_delaysInv {i : Instr} {s t : State} (hi : i ≠ .update) (hidle : s.reader.seq = .idle) (hs : DelaysInv s)
    (h : exec i s = .next t) : DelaysInv t := by
  obtain ⟨hchain, -⟩ := hs
  have hseq := exec_seq_of_idle h hidle
  refine ⟨?_, fun hlast => by rw [hseq] at hlast; cases hlast⟩
  by_cases hinit : i = .init
  · subst hinit
    rw [← next_inj.mp h, complete_history, initSteps_eq]
    exact isChain_append_of_not_dly hchain (by simp [isDly])
  · rwa [(exec_lines_history h hinit hi).2]

theorem delaysInv_stepParts : StepParts DelaysInv where
  take _ _ _ hs := hs
  rejected _ _ hs := hs
  exec _ _ _ := exec_delaysInv
  start _ _ hs := ⟨hs.1, nofun⟩
  readStep _ := readStep_delaysInv
  finish _ hs := hs

/-- Settles O48: every part of a step keeps the delays at their minimum. -/
theorem everyStepKeepsDelaysAtTheirMinimum : Obligations.EveryStepKeepsDelaysAtTheirMinimum :=
  fun _ _ => delaysInv_stepParts.step

/-! ## Buffers -/

/-- Only the exporting BUILDREPORT writes a buffer, and a write keeps the canonical form. -/
theorem exec_buffersInv {i : Instr} {s t : State} (hs : BuffersInv s) (h : exec i s = .next t) : BuffersInv t := by
  cases exec_effect h with
  | init => rwa [BuffersInv, complete_mem, initSteps_eq]
  | exported b href =>
    rw [BuffersInv, completeExport_mem, commitRead_mem, exportRead_mem_some s b href]
    exact wf_write _ _ _ hs
  | _ => exact hs

theorem buffersInv_stepParts : StepParts BuffersInv where
  take _ _ _ hs := hs
  rejected _ _ hs := hs
  exec _ _ _ _ _ := exec_buffersInv
  start _ _ hs := hs
  readStep s hs := by rwa [BuffersInv, readStep_mem]
  finish _ hs := hs

/-- Settles O49: every part of a step keeps the buffers canonical. -/
theorem everyStepKeepsBuffersCanonical : Obligations.EveryStepKeepsBuffersCanonical := fun _ _ => buffersInv_stepParts.step

/-! ## Reset -/

/-- Settles O50: at reset both reports and both axes are zero, INIT has not run, no READ is in progress, and the history and the
list of buffers are empty. -/
theorem resetMeetsTheInvariants : Obligations.ResetMeetsTheInvariants :=
  ⟨⟨⟨.inl rfl, .inl rfl⟩, ⟨.inl rfl, .inl rfl⟩, .inl rfl, .inl rfl⟩, nofun, ⟨by decide, by decide⟩,
    ⟨List.isChain_nil, nofun⟩, rfl⟩

/-- Settles O44: construction sets the fields so, and reset is the construction from the named values. -/
theorem constructionLeavesTheSpecsResetValues : Obligations.ConstructionLeavesTheSpecsResetValues :=
  ⟨fun _ _ => ⟨rfl, rfl, rfl, rfl, rfl, rfl, rfl, rfl, rfl, rfl⟩, Unspecified.named, rfl⟩

end Sys2Proof.Machine
end

section
/-! PROOFS. UPDATE (45_capability_interface.md R183, 40_reader.md R126 to R131): the report it stores and the events it issues,
as functions of what its READ took; and what the reference controller shows along that READ. -/

namespace Sys2Proof.Machine

/-! ## ENCODE -/

/-- Settles O30: ENCODE copies the axis fields, and its button byte names none of them. -/
theorem encodeCopiesAnyAxisByte : Obligations.EncodeCopiesAnyAxisByte := fun _ _ _ => ⟨rfl, rfl, rfl⟩

/-- Settles O31: wire bit `n` is the button that R83 puts there, which READ took from the raw bit of the table. -/
theorem wireBitsAreTheRawBitsRemapped : Obligations.WireBitsAreTheRawBitsRemapped := by
  refine ⟨fun r n hn => ?_, by decide⟩
  match n, hn with
  | 0, _ => exact congrArg some (buttonByte_red _)
  | 1, _ => exact congrArg some (buttonByte_blue _)
  | 2, _ => exact congrArg some (buttonByte_green _)
  | 3, _ => exact congrArg some (buttonByte_yellow _)
  | 4, _ => exact congrArg some (buttonByte_start _)
  | 5, _ => exact congrArg some (buttonByte_l _)
  | 6, _ => exact congrArg some (buttonByte_r _)
  | 7, _ => exact congrArg some (buttonByte_extra _)

/-! ## The whole effect -/

/-- Settles O10: READ leaves its registers at the result's axes and raw bits, the index at 8. -/
theorem updateReadsEncodesAndStores : Obligations.UpdateReadsEncodesAndStores := by
  intro s
  obtain ⟨r, hmin, -, he⟩ := execUpdate_spec s
  exact ⟨r, (afterRead r s).reader, hmin, rfl, he⟩

/-- Settles O13: the records an UPDATE adds are the trace of its READ. -/
theorem updateIssuesFiftyLineEvents : Obligations.UpdateIssuesFiftyLineEvents := by
  intro s t h
  obtain ⟨r, -, -, rfl⟩ := execUpdate_inv h
  exact ⟨r.trace, rfl, rfl, rfl, rfl, rfl, rfl, rfl, rfl, rfl, rfl⟩

/-! ## The report -/

/-- The samples in time order, one by one (R32). -/
theorem ReadRun.of_samples_eq {r : ReadRun} {su sd sl sr b0 b1 b2 b3 b4 b5 b6 b7 : Level}
    (h : r.samples = [su, sd, sl, sr, b0, b1, b2, b3, b4, b5, b6, b7]) :
    r.su = su ∧ r.sd = sd ∧ r.sl = sl ∧ r.sr = sr ∧ r.c0.sb = b0 ∧ r.c1.sb = b1 ∧ r.c2.sb = b2 ∧ r.c3.sb = b3 ∧
      r.c4.sb = b4 ∧ r.c5.sb = b5 ∧ r.c6.sb = b6 ∧ r.c7.sb = b7 := by
  simpa [ReadRun.samples, ReadRun.cycles] using h

/-- READ's result is a function of its samples (R126). -/
theorem ReadRun.result_congr {r r' : ReadRun} (h : r.samples = r'.samples) : r.result = r'.result := by
  obtain ⟨hu, hd, hl, hr, h0, h1, h2, h3, h4, h5, h6, h7⟩ := of_samples_eq h
  simp only [ReadRun.result, hu, hd, hl, hr, h0, h1, h2, h3, h4, h5, h6, h7]

/-- Settles O11: the twelve listed answers are the samples, and each button is at its wire bit. -/
theorem updateReportFollowsTheTwelveSamples : Obligations.UpdateReportFollowsTheTwelveSamples := by
  intro s su sd sl sr b0 b1 b2 b3 b4 b5 b6 b7 rest hp
  obtain ⟨r, -, htaken, he⟩ := execUpdate_spec s
  have hsamples := htaken.samples_eq (by simp [hp])
  rw [hp] at hsamples
  obtain ⟨rfl, rfl, rfl, rfl, rfl, rfl, rfl, rfl, rfl, rfl, rfl, rfl⟩ := ReadRun.of_samples_eq hsamples
  refine ⟨_, he, rfl, rfl, buttonByte_red _, buttonByte_blue _, buttonByte_green _, buttonByte_yellow _, buttonByte_start _,
    buttonByte_l _, buttonByte_r _, buttonByte_extra _, ?_⟩
  simp [hp]

/-! ## Lists that agree on their first entries -/

/-- Two lists have at least `n` entries and the same first `n`. -/
def AgreeUpTo {α : Type} (n : Nat) (l l' : List α) : Prop := n ≤ l.length ∧ l.take n = l'.take n

theorem AgreeUpTo.length_right {α : Type} {n : Nat} {l l' : List α} (h : AgreeUpTo n l l') : n ≤ l'.length := by
  have hlen := congrArg List.length h.2
  rw [List.length_take_of_le h.1, List.length_take] at hlen
  omega

theorem AgreeUpTo.getElem? {α : Type} {n k : Nat} {l l' : List α} (h : AgreeUpTo n l l') (hk : k < n) :
    ∃ x, l[k]? = some x ∧ l'[k]? = some x := by
  have hkl : k < l.length := hk.trans_le h.1
  have hl : l[k]? = some l[k] := List.getElem?_eq_getElem hkl
  refine ⟨l[k], hl, ?_⟩
  rw [← List.getElem?_take_of_lt hk, ← h.2, List.getElem?_take_of_lt hk, hl]

theorem AgreeUpTo.mono {α : Type} {m n : Nat} {l l' : List α} (h : AgreeUpTo n l l') (hm : m ≤ n) : AgreeUpTo m l l' := by
  have htake := congrArg (List.take m) h.2
  rw [List.take_take, List.take_take, Nat.min_eq_left hm] at htake
  exact ⟨hm.trans h.1, htake⟩

theorem AgreeUpTo.drop {α : Type} {m n : Nat} {l l' : List α} (h : AgreeUpTo (m + n) l l') :
    AgreeUpTo n (l.drop m) (l'.drop m) := by
  have hdrop := congrArg (List.drop m) h.2
  rw [List.drop_take, List.drop_take, Nat.add_sub_cancel_left] at hdrop
  have hlen := h.1
  exact ⟨by rw [List.length_drop]; omega, hdrop⟩

/-! ## What does not matter -/

/-- Two READs from states that list the same twelve answers take the same samples (R126). -/
theorem ReadRun.TakenFrom.samples_congr {r r' : ReadRun} {pins pins' : List Level} {draws draws' : List Nat}
    (ht : r.TakenFrom pins draws) (ht' : r'.TakenFrom pins' draws') (h : AgreeUpTo 12 pins pins') :
    r.samples = r'.samples := by
  rw [ht.samples_eq h.1, ht'.samples_eq h.length_right, h.2]

/-- Settles O14: the report is a function of the samples. -/
theorem updateReportDependsOnTheSamplesAlone : Obligations.UpdateReportDependsOnTheSamplesAlone := by
  intro s s' t t' hlen htake h h'
  obtain ⟨r, -, ht, rfl⟩ := execUpdate_inv h
  obtain ⟨r', -, ht', rfl⟩ := execUpdate_inv h'
  exact congrArg encodeReport (ReadRun.result_congr (ht.samples_congr ht' ⟨hlen, htake⟩))

/-- What the controller sees of an iteration with these two delays (R122, R193): one clock pulse. -/
def clockPulse (times : Nat × Nat) : List LineEvent := [.wr .clk .high, .dly times.1, .wr .clk .low, .dly times.2]

/-- What the controller sees of a READ with these delays (R128, R193): the load pulse, the clock pulses, the clock released. -/
def controllerTrace (tLoad tSettle : Nat) (tHighs tLows : List Nat) : List LineEvent :=
  LineEvent.wr .load .high :: .dly tLoad :: .wr .load .low :: .dly tSettle :: .dir .clk .output ::
    ((tHighs.zip tLows).flatMap clockPulse ++ [LineEvent.dir .clk .input])

theorem ReadRun.controllerView_trace (r : ReadRun) :
    controllerView r.trace =
      controllerTrace r.tLoad r.tSettle (r.cycles.map BitCycle.tHigh) (r.cycles.map BitCycle.tLow) := rfl

/-- Two READs from states that list the same eighteen draws take the same delays, so the controller sees the same of them. -/
theorem ReadRun.TakenFrom.controllerView_congr {r r' : ReadRun} {pins pins' : List Level} {draws draws' : List Nat}
    (ht : r.TakenFrom pins draws) (ht' : r'.TakenFrom pins' draws') (h : AgreeUpTo 18 draws draws') :
    controllerView r.trace = controllerView r'.trace := by
  have hload : r.tLoad = r'.tLoad := by
    obtain ⟨d, hd, hd'⟩ := h.getElem? (k := 0) (by omega)
    rw [ht.tLoad d hd, ht'.tLoad d hd']
  have hsettle : r.tSettle = r'.tSettle := by
    obtain ⟨d, hd, hd'⟩ := h.getElem? (k := 1) (by omega)
    rw [ht.tSettle d hd, ht'.tSettle d hd']
  have hhigh : r.cycles.map BitCycle.tHigh = r'.cycles.map BitCycle.tHigh := by
    refine List.ext_getElem?' fun k hk => ?_
    have hk8 : k < 8 := by simpa [ReadRun.cycles] using hk
    obtain ⟨d, hd, hd'⟩ := h.getElem? (k := 2 + 2 * k) (by omega)
    rw [ht.tHigh k d hk8 hd, ht'.tHigh k d hk8 hd']
  have hlow : r.cycles.map BitCycle.tLow = r'.cycles.map BitCycle.tLow := by
    refine List.ext_getElem?' fun k hk => ?_
    have hk8 : k < 8 := by simpa [ReadRun.cycles] using hk
    obtain ⟨d, hd, hd'⟩ := h.getElem? (k := 2 + (2 * k + 1)) (by omega)
    rw [ht.tLow k d hk8 hd, ht'.tLow k d hk8 hd']
  rw [controllerView_trace, controllerView_trace, hload, hsettle, hhigh, hlow]

/-- Settles O15: the controller's view of the trace is a function of the delays. -/
theorem controllerViewDoesNotDependOnLevelsRead : Obligations.ControllerViewDoesNotDependOnLevelsRead := by
  intro s s' t t' evs evs' hlen htake h h' hevs hevs'
  obtain ⟨r, -, ht, rfl⟩ := execUpdate_inv h
  obtain ⟨r', -, ht', rfl⟩ := execUpdate_inv h'
  obtain rfl : r.trace = evs := List.append_cancel_left hevs
  obtain rfl : r'.trace = evs' := List.append_cancel_left hevs'
  exact ht.controllerView_congr ht' ⟨hlen, htake⟩

/-! ## The reference controller along a READ -/

/-- The levels of the `Rd` records, in order. -/
def readLevels : List LineEvent → List Level
  | [] => []
  | .rd _ v :: rest => v :: readLevels rest
  | .wr _ _ :: rest => readLevels rest
  | .dir _ _ :: rest => readLevels rest
  | .dly _ :: rest => readLevels rest

/-- What the reference controller commits to at each `Rd` record among `evs`, events that follow history `h`. -/
def padShown (p : Pad) (inited : Bool) : List LineEvent → List LineEvent → List (Option Level)
  | _, [] => []
  | h, .rd l v :: rest => padLevel p inited h l :: padShown p inited (h ++ [.rd l v]) rest
  | h, .wr l v :: rest => padShown p inited (h ++ [.wr l v]) rest
  | h, .dir l d :: rest => padShown p inited (h ++ [.dir l d]) rest
  | h, .dly t :: rest => padShown p inited (h ++ [.dly t]) rest

theorem readLevels_trace (r : ReadRun) : readLevels r.trace = r.samples := rfl

theorem padShown_append (p : Pad) (inited : Bool) (h es fs : List LineEvent) :
    padShown p inited h (es ++ fs) = padShown p inited h es ++ padShown p inited (h ++ es) fs := by
  induction es generalizing h with
  | nil => simp [padShown]
  | cons e es ih => cases e <;> simp [padShown, ih]

/-- Where the controller commits to a level at every sample, samples that agree with it are those levels. -/
theorem readLevels_of_padAgrees {p : Pad} {inited : Bool} {h evs : List LineEvent} {vs : List Level}
    (hshown : padShown p inited h evs = vs.map some) (hagree : padAgrees p inited h evs) : readLevels evs = vs := by
  induction evs generalizing h vs with
  | nil => exact (List.map_eq_nil_iff.mp hshown.symm).symm
  | cons e evs ih =>
    cases e with
    | rd l v =>
      obtain ⟨w, ws, rfl, hw, hws⟩ := List.map_eq_cons_iff.mp hshown.symm
      obtain ⟨hlevel, hrest⟩ := hagree
      obtain rfl : v = w := hlevel w hw.symm
      exact congrArg (v :: ·) (ih hws.symm hrest)
    | wr l v => exact ih hshown hagree
    | dir l d => exact ih hshown hagree
    | dly t => exact ih hshown hagree

/-- Where the samples are what the controller commits to, each `Rd` record holds the level it shows after the events before. -/
theorem padLevel_of_readLevels {p : Pad} {inited : Bool} {h evs : List LineEvent}
    (hshown : padShown p inited h evs = (readLevels evs).map some) {k : Nat} {l : Line} {v : Level}
    (hk : evs[k]? = some (.rd l v)) : padLevel p inited (h ++ evs.take k) l = some v := by
  induction evs generalizing h k with
  | nil => simp at hk
  | cons e evs ih =>
    have hrest : padShown p inited (h ++ [e]) evs = (readLevels evs).map some := by
      cases e with
      | rd l v => exact (List.cons.inj hshown).2
      | wr l v => exact hshown
      | dir l d => exact hshown
      | dly t => exact hshown
    cases k with
    | zero =>
      obtain rfl : e = .rd l v := Option.some_inj.mp hk
      rw [List.take_zero, List.append_nil]
      exact (List.cons.inj hshown).1
    | succ k =>
      rw [List.take_succ_cons, ← List.singleton_append, ← List.append_assoc]
      exact ih hrest hk

/-! ### The phases of the READ -/

/-- The load pulse and the settle delay put bit 0 on DATA, whatever came before (R130). -/
theorem padPhase_loadEvents (h : List LineEvent) (r : ReadRun) : padPhase (h ++ r.loadEvents) = .showing 0 :=
  List.foldl_append

/-- A clock pulse puts the next bit on DATA (R130). -/
theorem padPhase_cycle {h : List LineEvent} {n : Nat} (hh : padPhase h = .showing n) (c : BitCycle) :
    padPhase (h ++ c.events) = .showing (n + 1) := by
  have hfold : padPhase (h ++ c.events) = c.events.foldl padStep (padPhase h) := List.foldl_append
  rw [hfold, hh]
  rfl

/-- The samples of the loop are bits `n`, `n + 1` and so on, once bit `n` is on DATA (R130, R237). -/
theorem padShown_cycles (p : Pad) (cs : List BitCycle) {h : List LineEvent} {n : Nat} (hh : padPhase h = .showing n) :
    padShown p true h (cs.flatMap BitCycle.events) =
      (List.range' n cs.length).map fun k => (RawBits.get p.latched k).map activeLow := by
  induction cs generalizing h n with
  | nil => rfl
  | cons c cs ih =>
    have hfirst : padShown p true h c.events = [(RawBits.get p.latched n).map activeLow] := by
      change [padData p.latched (padPhase h)] = _
      rw [hh]
      rfl
    rw [List.flatMap_cons, padShown_append, ih (padPhase_cycle hh c), hfirst, List.length_cons, List.range'_succ,
      List.map_cons, List.singleton_append]

/-- After INIT the controller commits to its answer at each of the twelve samples of a READ (R130). -/
theorem padShown_trace (p : Pad) (h : List LineEvent) (r : ReadRun) :
    padShown p true h r.trace = (padAnswers p).map some := by
  have hload : padPhase (h ++ r.directionEvents ++ r.loadEvents) = .showing 0 := padPhase_loadEvents _ r
  rw [r.trace_eq_append, padShown_append, padShown_append, padShown_append, padShown_cycles p r.cycles hload]
  rfl

/-! ### The report of what is pressed -/

theorem activeLow_beq_low (b : Bool) : (activeLow b == .low) = b := by cases b <;> rfl

theorem activeLow_eq_low_iff (b : Bool) : activeLow b = .low ↔ b = true := by cases b <;> simp [activeLow]

/-- A READ that took the controller's answers gives the report of what is pressed (R83, R117). -/
theorem encodeReport_result_of_padAnswers {r : ReadRun} {p : Pad} (h : r.samples = padAnswers p) :
    encodeReport r.result = p.report := by
  obtain ⟨hu, hd, hl, hr, h0, h1, h2, h3, h4, h5, h6, h7⟩ := ReadRun.of_samples_eq h
  simp only [ReadRun.result, Pad.report, hu, hd, hl, hr, h0, h1, h2, h3, h4, h5, h6, h7, activeLow_beq_low,
    activeLow_eq_low_iff]

/-- Settles O18: samples that agree with the controller are its twelve answers. -/
theorem referenceControllerReportIsWhatIsPressed : Obligations.ReferenceControllerReportIsWhatIsPressed := by
  intro s t p evs hinited h hevs hagree
  obtain ⟨r, -, -, rfl⟩ := execUpdate_inv h
  obtain rfl : r.trace = evs := List.append_cancel_left hevs
  rw [hinited] at hagree
  exact encodeReport_result_of_padAnswers (readLevels_of_padAgrees (padShown_trace p s.history r) hagree)

/-- A READ that was listed the controller's answers took them. -/
theorem ReadRun.TakenFrom.samples_of_padAnswers {r : ReadRun} {p : Pad} {rest : List Level} {draws : List Nat}
    (ht : r.TakenFrom (padAnswers p ++ rest) draws) : r.samples = padAnswers p :=
  ht.samples_eq (by simp [padAnswers])

/-- Settles O19: the answers listed are the samples taken, and those are what the controller shows. -/
theorem referenceControllerAnswersAgreeAlongTheRead : Obligations.ReferenceControllerAnswersAgreeAlongTheRead := by
  refine ⟨fun s p rest hinited hp => ?_, fun s p h l hinited => by rw [padLevel, hinited]; rfl⟩
  obtain ⟨r, -, ht, he⟩ := execUpdate_spec s
  rw [hp] at ht
  refine ⟨_, r.trace, he, rfl, rfl, fun k l v hk => ?_⟩
  rw [hinited]
  refine padLevel_of_readLevels ?_ hk
  rw [padShown_trace, readLevels_trace, ht.samples_of_padAnswers]

/-! ### The reports UPDATE can give -/

/-- READ's axes are axis codes (R117). -/
theorem ReadRun.axesOk_encodeReport (r : ReadRun) : AxesOk (encodeReport r.result) := by
  have code (p q : Prop) [Decidable p] [Decidable q] :
      AxisCode (if p then 0xFF#8 else if q then 0x00#8 else 0x80#8) := by
    split_ifs
    · exact .inr (.inr rfl)
    · exact .inl rfl
    · exact .inr (.inl rfl)
  exact ⟨code _ _, code _ _⟩

/-- What has to be pressed for UPDATE to give `r`. -/
def padOfReport (r : Report) : Pad where
  up := r.yAxis == 0x00#8
  down := r.yAxis == 0xFF#8
  left := r.xAxis == 0x00#8
  right := r.xAxis == 0xFF#8
  latched :=
    ⟨r.buttons.getLsbD 1, r.buttons.getLsbD 0, r.buttons.getLsbD 3, r.buttons.getLsbD 2, r.buttons.getLsbD 6,
      r.buttons.getLsbD 5, r.buttons.getLsbD 4, r.buttons.getLsbD 7⟩

/-- An axis code is read back from the two lines that show it. -/
theorem axisCode_eq_ite {b : Byte} (hb : AxisCode b) :
    (if b == 0xFF#8 then 0xFF#8 else if b == 0x00#8 then 0x00#8 else 0x80#8) = b := by
  obtain rfl | rfl | rfl := hb <;> rfl

theorem report_padOfReport {r : Report} (hr : AxesOk r) : (padOfReport r).report = r := by
  have hx : (padOfReport r).report.xAxis = r.xAxis := axisCode_eq_ite hr.1
  have hy : (padOfReport r).report.yAxis = r.yAxis := axisCode_eq_ite hr.2
  have hencode := congrArg Report.buttons (encodeReport_ctrlOfReport r)
  have hbuttons : (padOfReport r).report.buttons = r.buttons := hencode
  exact congr (congr (congrArg Report.mk hx) hy) hbuttons

/-- Settles O17: the pad that shows a report's axes and buttons makes UPDATE store it. -/
theorem updateGivesExactlyTheAxisCodeReports : Obligations.UpdateGivesExactlyTheAxisCodeReports := by
  intro report
  constructor
  · rintro ⟨s, t, h, rfl⟩
    obtain ⟨r, -, -, rfl⟩ := execUpdate_inv h
    exact r.axesOk_encodeReport
  · intro haxes
    obtain ⟨r, -, ht, he⟩ := execUpdate_spec { State.reset with pins := padAnswers (padOfReport report) ++ [] }
    refine ⟨_, _, he, ?_⟩
    exact (encodeReport_result_of_padAnswers ht.samples_of_padAnswers).trans (report_padOfReport haxes)

end Sys2Proof.Machine
end

section
/-! PROOFS. BUILDREPORT (43_report_builder.md), the constant answers (44_descriptor.md), and POLL (45_capability_interface.md
R192), which runs UPDATE, CHANGED and, where a change was found, BUILDREPORT. -/

namespace Sys2Proof.Machine

/-! ## BUILDREPORT -/

theorem outBytes_of_outRef {s : State} {b : Nat} (href : s.outRef = some b) : outBytes s = Memory.read s.mem b := by
  rw [outBytes, href]

theorem overwriteHead_ne_nil (r : Report) (old : List Byte) : overwriteHead r old ≠ [] := by
  simp [overwriteHead, Report.toBytes]

/-- Without E there is no check (R164). -/
theorem exec_buildreport_false (s : State) : exec (.buildreport false) s = .next (complete .unit (commitRead s)) := rfl

/-- With a buffer shorter than 3 bytes the command is turned away (R163). -/
theorem exec_buildreport_short {s : State} (h : (outBytes s).length < 3) :
    exec (.buildreport true) s = .next (reject .bufSize s) := by
  rw [exec, execBuildreport, if_pos ((outTooShort_iff true s).mpr ⟨rfl, h⟩)]

/-- With a buffer of at least 3 bytes the report is written there, then committed (R161, R162). -/
theorem exec_buildreport_into {s : State} {b : Nat} (href : s.outRef = some b) (hlen : 3 ≤ (Memory.read s.mem b).length) :
    exec (.buildreport true) s = .next (completeExport (commitRead (exportRead s))) := by
  have hlong : outTooShort true s = false :=
    (outTooShort_false_iff true s).mpr fun _ => by rwa [outBytes_of_outRef href]
  rw [exec, execBuildreport, if_neg (ne_true_of_eq_false hlong), if_pos rfl]

/-- Settles O36: no check, the commit, the reply. -/
theorem buildReportWithoutBufferOnlyCommits : Obligations.BuildReportWithoutBufferOnlyCommits := exec_buildreport_false

/-- Settles O37: the write, the commit and the reply, which shows the bytes just written. -/
theorem buildReportExportsThenCommits : Obligations.BuildReportExportsThenCommits := by
  intro s b href hlen
  have hout : outHead (commitRead (exportRead s)) = some (Report.toBytes s.lastRead) := outHead_exportRead s b href
  rw [exec_buildreport_into href hlen, completeExport, hout]
  simp only [exportRead, href]
  rfl

/-- Settles O40: with no reference the buffer has length 0 (log 16). -/
theorem undersizedBufferIsRejectedAndChangesNothing : Obligations.UndersizedBufferIsRejectedAndChangesNothing := by
  rintro s (hnone | ⟨b, href, hshort⟩)
  · exact exec_buildreport_short (by simp [outBytes, hnone])
  · exact exec_buildreport_short (by rwa [outBytes_of_outRef href])

/-- Writing a report to a buffer of at least 3 bytes keeps the length of every buffer. -/
theorem length_read_write_overwriteHead {m : Memory} {b : Nat} (r : Report) (hlen : 3 ≤ (Memory.read m b).length) (b' : Nat) :
    (Memory.read (Memory.write m b (overwriteHead r (Memory.read m b))) b').length = (Memory.read m b').length := by
  by_cases hb : b' = b
  · subst hb
    rw [read_write_nonempty _ (overwriteHead_ne_nil _ _), overwriteHead_length r _ hlen]
  · rw [read_write_other _ hb]

/-- No operation changes the length of a buffer (R51, R61). -/
theorem exec_length_read {i : Instr} {s t : State} (h : exec i s = .next t) (b : Nat) :
    (Memory.read t.mem b).length = (Memory.read s.mem b).length := by
  cases exec_effect h with
  | init => rw [complete_mem, initSteps_eq]
  | exported c href hlen =>
    rw [completeExport_mem, commitRead_mem, exportRead_mem_some s c href, length_read_write_overwriteHead _ hlen]
  | _ => rfl

/-- Settles O38: OUT is overwritten from index 0 by the three bytes, and no other buffer is written. -/
theorem exportWritesThreeBytesOfOutAndNoOther : Obligations.ExportWritesThreeBytesOfOutAndNoOther := by
  intro s t b _ href hlen h
  have hmem : t.mem = Memory.write s.mem b (overwriteHead s.lastRead (Memory.read s.mem b)) := by
    rw [exec_buildreport_into href hlen] at h
    rw [← next_inj.mp h, completeExport_mem, commitRead_mem, exportRead_mem_some s b href]
  have hread : Memory.read t.mem b = overwriteHead s.lastRead (Memory.read s.mem b) := by
    rw [hmem, read_write_nonempty _ (overwriteHead_ne_nil _ _)]
  obtain ⟨hx, hy, hbuttons⟩ := overwriteHead_head s.lastRead (Memory.read s.mem b)
  refine ⟨?_, ?_, ?_, fun k hk => ?_, fun b' k hb => ?_, exec_length_read h⟩
  · rw [Memory.byteAt, hread, hx]
  · rw [Memory.byteAt, hread, hy]
  · rw [Memory.byteAt, hread, hbuttons]
  · rw [Memory.byteAt, hread, overwriteHead_tail _ _ k hk, Memory.byteAt]
  · rw [hmem, byteAt_write_other _ k hb]

theorem Report.differs_self (r : Report) : Report.differs r r = false := by
  rw [← Bool.not_eq_true, Report.differs_eq_true_iff]
  simp

/-- A BUILDREPORT that is not turned away commits (R162). -/
theorem exec_buildreport_commits {e : Bool} {s t : State} (hlong : e = true → 3 ≤ (outBytes s).length)
    (h : exec (.buildreport e) s = .next t) : t.lastReported = s.lastRead ∧ t.lastRead = s.lastRead := by
  cases exec_effect h with
  | bufSize hshort => exact absurd (hlong rfl) (by omega)
  | exported => simp
  | commit => simp

/-- Settles O39: after the commit CHANGED compares a report with itself. -/
theorem commitMakesTheNextChangedFalse : Obligations.CommitMakesTheNextChangedFalse := by
  intro e s hlong
  obtain ⟨t, ht⟩ := exec_next (.buildreport e) s
  obtain ⟨hreported, hread⟩ := exec_buildreport_commits hlong ht
  refine ⟨t, ht, hreported, hread, fun hcold => ?_⟩
  have hsame : Report.differs t.lastRead t.lastReported = false := by rw [hread, hreported, Report.differs_self]
  rw [exec_changed_of_ready ((exec_buildreport_cold ht).trans hcold), hsame]
  rfl

/-! ## The constant answers -/

/-- Settles O41: the answer is REPORT_SIZE. -/
theorem reportSizeReadAnswersThree : Obligations.ReportSizeReadAnswersThree := fun _ => rfl

/-- Settles O42: the descriptor has a first byte, and its size is its length. -/
theorem descriptorReadsAnswerTheConstant : Obligations.DescriptorReadsAnswerTheConstant :=
  ⟨Nat.succ_pos _, fun _ => rfl, fun _ => rfl⟩

/-- Settles O43: button n is bit n - 1 of the button byte, where ENCODE puts that button. -/
theorem declaredLayoutIsTheReportsThreeBytes : Obligations.DeclaredLayoutIsTheReportsThreeBytes := by
  refine ⟨rfl, rfl, fun c => ?_⟩
  simp [declaredLayout, declaredValue, encodeReport, buttonByte_red, buttonByte_blue, buttonByte_green, buttonByte_yellow,
    buttonByte_start, buttonByte_l, buttonByte_r, buttonByte_extra, -BitVec.getLsbD_eq_getElem]

/-! ## POLL -/

/-- The host reads back the bit CHANGED answered (R89). -/
theorem lastBit_complete_bit (p : Bool) (s : State) : lastBit (complete (.bit (boolBit p)) s) = p := by
  cases p <;> simp [lastBit, boolBit]

/-- CHANGED answers false exactly with Cold clear and two equal reports (R150). -/
theorem changedAnswer_eq_false_iff (s : State) :
    changedAnswer s = false ↔ s.cold = false ∧ s.lastReported = s.lastRead := by
  cases hcold : s.cold with
  | true => simp [changedAnswer_of_cold hcold]
  | false =>
    rw [changedAnswer_of_ready hcold]
    constructor
    · intro hsame
      rw [← Bool.not_eq_true, Report.differs_eq_true_iff] at hsame
      push Not at hsame
      obtain ⟨hx, hy, hbuttons⟩ := hsame
      exact ⟨rfl, (congr (congr (congrArg Report.mk hx) hy) hbuttons).symm⟩
    · rintro ⟨-, hsame⟩
      rw [hsame, Report.differs_self]

/-- The state after a POLL's CHANGED, when its UPDATE left `u`. -/
def afterChanged (u : State) : State := complete (.bit (boolBit (changedAnswer u))) (clearCold u)

/-- After its UPDATE a POLL goes by CHANGED's answer (R192). -/
theorem poll_of_update {s u : State} (b : Nat) (h : exec .update s = .next u) :
    poll b s = if changedAnswer u = true then buildInto b (afterChanged u) else .next (afterChanged u) := by
  have hbit : lastBit (afterChanged u) = changedAnswer u := lastBit_complete_bit _ _
  rw [poll, h, ← hbit]
  rfl

/-- BUILDREPORT into a buffer of at least 3 bytes, as the host sees it (R161, R162, R193). -/
theorem buildInto_spec {s : State} {b : Nat} (hlen : 3 ≤ (Memory.read s.mem b).length) :
    ∃ t, buildInto b s = .next t ∧ t.lastReported = s.lastRead ∧ t.lastRead = s.lastRead ∧ t.cold = s.cold ∧
      t.replies = s.replies ++ [{ status := .none, value := .unit, out := some (Report.toBytes s.lastRead) }] ∧
      (Memory.read t.mem b).take 3 = Report.toBytes s.lastRead := by
  refine ⟨_, buildReportExportsThenCommits { s with outRef := some b } b rfl hlen, rfl, rfl, rfl, rfl, ?_⟩
  rw [read_write_nonempty _ (by simp)]
  rfl

/-- UPDATE answers completion (R183). -/
theorem exec_update_replies {s t : State} (h : exec .update s = .next t) :
    t.replies = s.replies ++ [{ status := .none, value := .unit }] := by
  obtain ⟨r, -, -, rfl⟩ := execUpdate_inv h
  rfl

/-- Settles O58: CHANGED's answer decides; where it is false Cold was clear and the reports already agreed. -/
theorem pollCommitsAndExportsTheReport : Obligations.PollCommitsAndExportsTheReport := by
  intro s b _ hlen
  obtain ⟨u, hu⟩ := exec_next .update s
  have hmem : u.mem = s.mem := exec_mem_of_ne_buildreport_true hu nofun
  have hreplies := exec_update_replies hu
  rw [poll_of_update b hu]
  cases hanswer : changedAnswer u with
  | true =>
    obtain ⟨t, ht, hreported, hread, hcold, hreply, hbytes⟩ :=
      buildInto_spec (s := afterChanged u) (b := b) (hmem ▸ hlen)
    refine ⟨t, ht, hreported.trans hread.symm, hcold, .inl ⟨?_, ?_⟩⟩
    · rw [hreply, hread]
      simp [afterChanged, hanswer, boolBit, hreplies, Report.toBytes]
    · rw [hbytes, hread]
      rfl
  | false =>
    obtain ⟨hcold, hsame⟩ := (changedAnswer_eq_false_iff u).mp hanswer
    have hcold' : s.cold = false := (exec_cold_of_ne_changed (i := .update) nofun hu).symm.trans hcold
    have hreported : u.lastReported = s.lastReported := exec_lastReported_of_ne_buildreport hu nofun
    refine ⟨afterChanged u, rfl, hsame, rfl, .inr ⟨?_, hcold', hmem, hreported⟩⟩
    simp [afterChanged, hanswer, boolBit, hreplies]

end Sys2Proof.Machine
end

section
/-! PROOFS. The whole machine: it never stops (60_exceptions.md R200), an operation in progress ends (45_capability_interface.md
R187), and what a step can write of the reports, the history, `Inited` and Cold. -/

namespace Sys2Proof.Machine

/-! ## Runs -/

/-- Settles O51: one step after another, each of which answers. -/
theorem everyRunGoesOnForEver : Obligations.EveryRunGoesOnForEver := by
  intro s k
  induction k generalizing s with
  | zero => exact ⟨s, rfl⟩
  | succ k ih =>
    obtain ⟨t, ht⟩ := step_next s
    rw [run_succ_of_step ht]
    exact ih t

/-- A step from an idle block leaves it idle (log 1). -/
theorem step_seq_of_idle {s t : State} (hs : s.reader.seq = .idle) (h : step s = .next t) : t.reader.seq = .idle := by
  obtain ⟨-, -, rfl⟩ | ⟨c, rest, e, -, -, -, rfl⟩ | ⟨c, rest, i, l, -, -, -, he⟩ | ⟨hbusy, -⟩ := step_cases h
  case inl => exact hs
  case inr.inl => exact hs
  case inr.inr.inl => exact exec_seq_of_idle he hs
  case inr.inr.inr => exact absurd hs hbusy

/-- Settles O52: inside a READ the machine takes the steps left, one by one, and ends the UPDATE with the last. -/
theorem operationsRunToCompletion : Obligations.OperationsRunToCompletion := by
  refine ⟨fun s t => step_seq_of_idle, fun s hs => ?_⟩
  have hpos : s.reader.stepsLeft ≠ 0 := mt (stepsLeft_eq_zero_iff s.reader).mp hs
  refine ⟨s.reader.stepsLeft, _, Nat.pos_of_ne_zero hpos, stepsLeft_le _, run_stepsLeft hs, ?_, rfl, ?_, fun k hk => ?_⟩
  · have hleft := stepsLeft_readSteps (le_refl s.reader.stepsLeft)
    rw [Nat.sub_self] at hleft
    exact (stepsLeft_eq_zero_iff _).mp hleft
  · rw [finishUpdate, complete_replies, storeRead_replies, readSteps_replies]
  · refine ⟨_, run_eq_readSteps hk, fun hidle => ?_⟩
    have hleft := stepsLeft_readSteps hk.le
    rw [(stepsLeft_eq_zero_iff _).mpr hidle] at hleft
    omega

/-! ## The history, `Inited` and the lines -/

/-- A step of the sequence appends to the history (R71). -/
theorem readStep_history (s : State) : s.history <+: (readStep s).history := by
  cases hq : s.reader.seq with
  | idle | s0 | s10 | s16 | s18 => simp only [readStep, hq]; exact List.prefix_refl _
  | _ => simp only [readStep, hq]; exact List.prefix_append _ _

/-- What has been recorded stays recorded. -/
theorem historyGrows_stepParts (h : List LineEvent) : StepParts fun s => h <+: s.history where
  take _ _ _ hs := hs
  rejected _ _ hs := hs
  exec _ _ _ _ _ hs he := by
    obtain ⟨evs, hevs⟩ := exec_history_append he
    rw [hevs]
    exact hs.trans (List.prefix_append _ _)
  start _ _ hs := hs
  readStep s hs := hs.trans (readStep_history s)
  finish _ hs := hs

/-- Settles O54: every part of a step appends. -/
theorem historyOnlyGrows : Obligations.HistoryOnlyGrows := by
  intro s t h
  obtain ⟨evs, hevs⟩ := (historyGrows_stepParts s.history).step (List.prefix_refl _) h
  exact ⟨evs, hevs.symm⟩

theorem inited_stepParts : StepParts fun s => s.inited = true where
  take _ _ _ hs := hs
  rejected _ _ hs := hs
  exec _ _ _ _ _ hs he := exec_inited_of_inited he hs
  start _ _ hs := hs
  readStep s hs := (readStep_inited s).trans hs
  finish _ hs := hs

/-- Settles O53: the step keeps `Inited`, `LinesInv` and the idle position, whose lines are quiet. -/
theorem linesAreQuietBetweenOperations : Obligations.LinesAreQuietBetweenOperations := by
  intro s t hlines hinited hidle h
  have hat : t.lines = linesAt t.reader.seq := linesInv_stepParts.step hlines h (inited_stepParts.step hinited h)
  rw [hat, step_seq_of_idle hidle h]
  exact ⟨rfl, rfl⟩

/-! ## The two reports -/

/-- Settles O56: UPDATE keeps LastReported, and of the operations only BUILDREPORT's commit writes it. -/
theorem lastReportedChangesOnlyByCommit : Obligations.LastReportedChangesOnlyByCommit := by
  intro s t h hne
  obtain ⟨-, -, rfl⟩ | ⟨c, rest, e, -, -, -, rfl⟩ | ⟨c, rest, i, l, -, hp, hd, he⟩ | ⟨-, rfl⟩ := step_cases h
  case inl => exact absurd rfl hne
  case inr.inl => exact absurd rfl hne
  case inr.inr.inr => exact absurd (updateStep_frame s).1 hne
  case inr.inr.inl =>
    obtain rfl := decode_singleton_rest hd
    have hbuild : ∃ e, i = .buildreport e := by
      by_contra hnot
      have hkeep := exec_lastReported_of_ne_buildreport he fun e hi => hnot ⟨e, hi⟩
      exact hne hkeep
    obtain ⟨e, rfl⟩ := hbuild
    cases exec_effect he with
    | bufSize => exact absurd rfl hne
    | exported => exact ⟨by simp, by simp, c, rest, true, hp, hd⟩
    | commit => exact ⟨rfl, rfl, c, rest, false, hp, hd⟩

/-- A step of an UPDATE in progress keeps LastReported (R38). -/
theorem updateStep_lastReported (s : State) : (updateStep s).lastReported = s.lastReported := by
  obtain ⟨hreported, -⟩ := updateStep_frame s
  exact hreported

/-- Settles O57: inside a READ only S18 stores, and of the operations only UPDATE does. -/
theorem lastReadChangesOnlyByUpdate : Obligations.LastReadChangesOnlyByUpdate := by
  intro s t h hne
  obtain ⟨-, -, rfl⟩ | ⟨c, rest, e, -, -, -, rfl⟩ | ⟨c, rest, i, l, hidle, hp, hd, he⟩ | ⟨-, rfl⟩ := step_cases h
  case inl => exact absurd rfl hne
  case inr.inl => exact absurd rfl hne
  case inr.inr.inl =>
    obtain rfl := decode_singleton_rest hd
    have hi : i = .update := by
      by_contra hnot
      exact hne (exec_frame_of_ne_update he hnot).1
    subst hi
    have hkeep := exec_lastReported_of_ne_buildreport he (by simp)
    exact ⟨hkeep, .inr ⟨hidle, c, rest, hp, hd⟩⟩
  case inr.inr.inr =>
    refine ⟨updateStep_lastReported s, .inl ?_⟩
    by_contra hlast
    exact hne (updateStep_lastRead s hlast)

/-! ## Cold is CHANGED's alone -/

/-- The state with `b` for Cold. -/
def setCold (b : Bool) (s : State) : State := { s with cold := b }

theorem readStep_setCold (b : Bool) (s : State) : readStep (setCold b s) = setCold b (readStep s) := by
  have hseq : (setCold b s).reader.seq = s.reader.seq := rfl
  cases hq : s.reader.seq <;> simp only [readStep, hseq, hq] <;> rfl

theorem readSteps_setCold (b : Bool) (n : Nat) (s : State) : readSteps n (setCold b s) = setCold b (readSteps n s) := by
  induction n generalizing s with
  | zero => rfl
  | succ n ih => rw [readSteps, readStep_setCold, ih, readSteps]

theorem finishUpdate_setCold (b : Bool) (s : State) : finishUpdate (setCold b s) = setCold b (finishUpdate s) := rfl

theorem exportRead_setCold (b : Bool) (s : State) : exportRead (setCold b s) = setCold b (exportRead s) := by
  have href : (setCold b s).outRef = s.outRef := rfl
  cases hout : s.outRef with
  | none => simp only [exportRead, href, hout]
  | some c => simp only [exportRead, href, hout]; rfl

/-- Settles O35: no part of the other operations reads Cold. -/
theorem onlyChangedDependsOnCold : Obligations.OnlyChangedDependsOnCold := by
  intro i s t b hi h
  change exec i (setCold b s) = .next (setCold b t)
  cases i with
  | changed => exact absurd rfl hi
  | init =>
    rw [← next_inj.mp h]
    exact next_inj.mpr (by rw [initSteps_eq, initSteps_eq]; rfl)
  | update =>
    have ht : finishUpdate (runRead s) = t := next_inj.mp h
    have hrun : runRead (setCold b s) = setCold b (runRead s) := readSteps_setCold b Config.readStepCount (startRead s)
    rw [← ht, exec, execUpdate, hrun, finishUpdate_setCold]
  | buildreport e =>
    have hshort : outTooShort e (setCold b s) = outTooShort e s := rfl
    obtain ⟨hcheck, rfl⟩ | ⟨rfl, hcheck, rfl⟩ | ⟨rfl, rfl⟩ := execBuildreport_cases h
    · rw [exec, execBuildreport, hshort, if_pos hcheck]
      rfl
    · rw [exec, execBuildreport, hshort, if_neg (ne_true_of_eq_false hcheck), if_pos rfl, exportRead_setCold]
      rfl
    · rfl
  | getReportsize => rw [← next_inj.mp h]; rfl
  | getDescsize => rw [← next_inj.mp h]; rfl
  | getDesc => rw [← next_inj.mp h]; rfl

end Sys2Proof.Machine
end

section
/-! PROOFS. The two views of a run (45_capability_interface.md R193). Two blocks with the same commands go in step: a relation
that each command keeps, with the entries listed for the commands still pending, is kept by every run (`Lockstep`). -/

namespace Sys2Proof.Machine

/-! ## Two runs in step -/

/-- A relation between two blocks that have `n` commands to come: a command taken by both and run, or rejected, leaves it with
one command fewer to come. -/
structure Lockstep (R : Nat → State → State → Prop) : Prop where
  rejected : ∀ n c rest s s', R (n + 1) s s' →
    R n (reject .reserved (takeCommand c rest s)) (reject .reserved (takeCommand c rest s'))
  operation : ∀ n i c rest s s' t t', R (n + 1) s s' → exec i (takeCommand c rest s) = .next t →
    exec i (takeCommand c rest s') = .next t' → R n t t'

/-- One step of two idle blocks with the same commands. -/
theorem Lockstep.step {R : Nat → State → State → Prop} (hR : Lockstep R) {s s' t t' : State}
    (hidle : s.reader.seq = .idle) (hidle' : s'.reader.seq = .idle) (hpending : s.pending = s'.pending)
    (hrel : R s.pending.length s s') (h : Machine.step s = .next t) (h' : Machine.step s' = .next t') :
    t.pending = t'.pending ∧ R t.pending.length t t' := by
  cases hp : s.pending with
  | nil =>
    rw [idleBlockWithoutCommandsDoesNothing s hidle hp, next_inj] at h
    rw [idleBlockWithoutCommandsDoesNothing s' hidle' (hpending ▸ hp), next_inj] at h'
    subst h h'
    exact ⟨hpending, hrel⟩
  | cons c rest =>
    have hp' : s'.pending = c :: rest := hpending ▸ hp
    rw [hp, List.length_cons] at hrel
    cases hd : decode [c.byte] with
    | error d =>
      rw [reservedCommandIsRejectedAndChangesNothing s c rest d hidle hp hd, next_inj] at h
      rw [reservedCommandIsRejectedAndChangesNothing s' c rest d hidle' hp' hd, next_inj] at h'
      subst h h'
      exact ⟨rfl, hR.rejected rest.length c rest s s' hrel⟩
    | ok p =>
      obtain ⟨i, l⟩ := p
      obtain rfl := decode_singleton_rest hd
      have he : exec i (takeCommand c rest s) = .next t := (stepRunsTheDecodedCommand s c rest i hidle hp hd).symm.trans h
      have he' : exec i (takeCommand c rest s') = .next t' :=
        (stepRunsTheDecodedCommand s' c rest i hidle' hp' hd).symm.trans h'
      have htp : t.pending = rest := (exec_pending_outRef he).1
      have htp' : t'.pending = rest := (exec_pending_outRef he').1
      rw [htp, htp']
      exact ⟨rfl, hR.operation rest.length i c rest s s' t t' hrel he he'⟩

/-- Any number of steps of two idle blocks with the same commands. -/
theorem Lockstep.run {R : Nat → State → State → Prop} (hR : Lockstep R) {k : Nat} {s s' t t' : State}
    (hidle : s.reader.seq = .idle) (hidle' : s'.reader.seq = .idle) (hpending : s.pending = s'.pending)
    (hrel : R s.pending.length s s') (h : Host.Core.run Sys2Proof.core k s = .next t)
    (h' : Host.Core.run Sys2Proof.core k s' = .next t') : R t.pending.length t t' := by
  induction k generalizing s s' with
  | zero =>
    obtain rfl : s = t := next_inj.mp h
    obtain rfl : s' = t' := next_inj.mp h'
    exact hrel
  | succ k ih =>
    obtain ⟨u, hu⟩ := step_next s
    obtain ⟨u', hu'⟩ := step_next s'
    rw [run_succ_of_step hu] at h
    rw [run_succ_of_step hu'] at h'
    obtain ⟨hpending', hrel'⟩ := hR.step hidle hidle' hpending hrel hu hu'
    exact ih (step_seq_of_idle hidle hu) (step_seq_of_idle hidle' hu') hpending' hrel' h h'

/-! ## The controller's view -/

@[simp] theorem controllerView_append (es fs : List LineEvent) :
    controllerView (es ++ fs) = controllerView es ++ controllerView fs := by
  induction es with
  | nil => rfl
  | cons e es ih => cases e <;> simp [controllerView, ih]

/-- Two blocks the controller cannot tell apart, with the same eighteen draws for each of `n` commands. -/
structure SameForController (n : Nat) (s s' : State) : Prop where
  view : controllerView s.history = controllerView s'.history
  draws : AgreeUpTo (18 * n) s.draws s'.draws

theorem SameForController.exec {n : Nat} {i : Instr} {s s' t t' : State} (hsame : SameForController (n + 1) s s')
    (h : Machine.exec i s = .next t) (h' : Machine.exec i s' = .next t') : SameForController n t t' := by
  obtain ⟨hview, hdraws⟩ := hsame
  have hfewer : AgreeUpTo (18 * n) s.draws s'.draws := hdraws.mono (by omega)
  by_cases hupdate : i = .update
  · subst hupdate
    obtain ⟨r, -, ht, rfl⟩ := execUpdate_inv h
    obtain ⟨r', -, ht', rfl⟩ := execUpdate_inv h'
    rw [show 18 * (n + 1) = 18 + 18 * n by omega] at hdraws
    have htrace := ht.controllerView_congr ht' (hdraws.mono (by omega))
    exact ⟨by simp [hview, htrace], hdraws.drop⟩
  · obtain ⟨-, -, -, hd⟩ := exec_frame_of_ne_update h hupdate
    obtain ⟨-, -, -, hd'⟩ := exec_frame_of_ne_update h' hupdate
    refine ⟨?_, by rwa [hd, hd']⟩
    by_cases hinit : i = .init
    · subst hinit
      rw [← next_inj.mp h, ← next_inj.mp h', complete_history, complete_history, initSteps_eq, initSteps_eq,
        controllerView_append, controllerView_append, hview]
    · rw [(exec_lines_history h hinit hupdate).2, (exec_lines_history h' hinit hupdate).2, hview]

theorem SameForController.take {n : Nat} {s s' : State} (hsame : SameForController n s s') (c : Command)
    (rest : List Command) : SameForController n (takeCommand c rest s) (takeCommand c rest s') :=
  ⟨hsame.view, hsame.draws⟩

theorem sameForController_lockstep : Lockstep SameForController where
  rejected _ _ _ _ _ hsame := ⟨hsame.view, hsame.draws.mono (by omega)⟩
  operation _ _ c rest _ _ _ _ hsame h h' := (hsame.take c rest).exec h h'

/-- Settles O60: each UPDATE uses up eighteen draws, and nothing else the controller sees depends on the state. -/
theorem controllerSeesOnlyCommandsAndDelays : Obligations.ControllerSeesOnlyCommandsAndDelays := by
  intro k s s' t t' hidle hidle' hpending hview hlen htake h h'
  have hsame : SameForController s.pending.length s s' := ⟨hview, hlen, htake⟩
  exact (sameForController_lockstep.run hidle hidle' hpending hsame h h').view

/-! ## The host's view -/

/-- Two blocks the host cannot tell apart, with the same twelve answers for each of `n` commands. -/
structure SameForHost (n : Nat) (s s' : State) : Prop where
  replies : s.replies = s'.replies
  lastRead : s.lastRead = s'.lastRead
  lastReported : s.lastReported = s'.lastReported
  cold : s.cold = s'.cold
  lengths : ∀ b, (Memory.read s.mem b).length = (Memory.read s'.mem b).length
  pins : AgreeUpTo (12 * n) s.pins s'.pins

/-- The operand check depends on the reference and the lengths alone (R163). -/
theorem length_outBytes_congr {s s' : State} (href : s.outRef = s'.outRef)
    (hlengths : ∀ b, (Memory.read s.mem b).length = (Memory.read s'.mem b).length) :
    (outBytes s).length = (outBytes s').length := by
  cases hout : s.outRef with
  | none => simp [outBytes, ← href, hout]
  | some b => simpa [outBytes, ← href, hout] using hlengths b

theorem changedAnswer_congr {s s' : State} (hread : s.lastRead = s'.lastRead) (hreported : s.lastReported = s'.lastReported)
    (hcold : s.cold = s'.cold) : changedAnswer s = changedAnswer s' := by
  rw [changedAnswer, changedAnswer, hread, hreported, hcold]

/-- The host's view, the reports and Cold after any operation but UPDATE. -/
theorem SameForHost.exec_of_ne_update {n : Nat} {i : Instr} {s s' t t' : State} (hsame : SameForHost n s s')
    (href : s.outRef = s'.outRef) (hi : i ≠ .update) (h : Machine.exec i s = .next t) (h' : Machine.exec i s' = .next t') :
    SameForHost n t t' := by
  obtain ⟨hreplies, hread, hreported, hcold, hlengths, hpins⟩ := hsame
  have hlengths' (b : Nat) : (Memory.read t.mem b).length = (Memory.read t'.mem b).length := by
    rw [exec_length_read h, exec_length_read h', hlengths]
  obtain ⟨htread, -, htpins, -⟩ := exec_frame_of_ne_update h hi
  obtain ⟨htread', -, htpins', -⟩ := exec_frame_of_ne_update h' hi
  have hpins' : AgreeUpTo (12 * n) t.pins t'.pins := by rwa [htpins, htpins']
  have hread' : t.lastRead = t'.lastRead := by rw [htread, htread', hread]
  have hcheck := length_outBytes_congr href hlengths
  cases exec_effect h with
  | update => exact absurd rfl hi
  | init =>
    cases exec_effect h'
    refine ⟨?_, hread', ?_, ?_, hlengths', hpins'⟩ <;> simp [initSteps_eq, hreplies, hreported, hcold]
  | changed =>
    cases exec_effect h'
    refine ⟨?_, hread', hreported, rfl, hlengths', hpins'⟩
    simp [hreplies, changedAnswer_congr hread hreported hcold]
  | bufSize hshort =>
    cases exec_effect h' with
    | bufSize => exact ⟨by simp [hreplies], hread', hreported, hcold, hlengths', hpins'⟩
    | exported b' href' hlen' => rw [hcheck, outBytes_of_outRef href'] at hshort; omega
  | exported b hb hlen =>
    cases exec_effect h' with
    | bufSize hshort' => rw [← hcheck, outBytes_of_outRef hb] at hshort'; omega
    | exported b' hb' =>
      have hout : outHead (commitRead (exportRead s)) = some (Report.toBytes s.lastRead) := outHead_exportRead s b hb
      have hout' : outHead (commitRead (exportRead s')) = some (Report.toBytes s'.lastRead) := outHead_exportRead s' b' hb'
      refine ⟨?_, hread', ?_, ?_, hlengths', hpins'⟩
      · simp [hout, hout', hreplies, hread]
      · simp [hread]
      · simp [hcold]
  | commit =>
    cases exec_effect h'
    exact ⟨by simp [hreplies], hread', hread, hcold, hlengths', hpins'⟩
  | reportsize | descsize | desc =>
    cases exec_effect h'
    exact ⟨by simp [hreplies], hread', hreported, hcold, hlengths', hpins'⟩

/-- An UPDATE uses up twelve answers, which give both blocks the same report. -/
theorem SameForHost.exec_update {n : Nat} {s s' t t' : State} (hsame : SameForHost (n + 1) s s')
    (h : Machine.exec .update s = .next t) (h' : Machine.exec .update s' = .next t') : SameForHost n t t' := by
  obtain ⟨hreplies, hread, hreported, hcold, hlengths, hpins⟩ := hsame
  obtain ⟨r, -, ht, rfl⟩ := execUpdate_inv h
  obtain ⟨r', -, ht', rfl⟩ := execUpdate_inv h'
  rw [show 12 * (n + 1) = 12 + 12 * n by omega] at hpins
  have hsamples := ht.samples_congr ht' (hpins.mono (by omega))
  exact ⟨by simp [hreplies], congrArg encodeReport (ReadRun.result_congr hsamples), hreported, hcold, hlengths, hpins.drop⟩

theorem SameForHost.fewer {n : Nat} {s s' : State} (hsame : SameForHost (n + 1) s s') : SameForHost n s s' :=
  { hsame with pins := hsame.pins.mono (by omega) }

theorem SameForHost.take {n : Nat} {s s' : State} (hsame : SameForHost n s s') (c : Command) (rest : List Command) :
    SameForHost n (takeCommand c rest s) (takeCommand c rest s') :=
  ⟨hsame.replies, hsame.lastRead, hsame.lastReported, hsame.cold, hsame.lengths, hsame.pins⟩

theorem sameForHost_lockstep : Lockstep SameForHost where
  rejected _ _ _ _ _ hsame :=
    { hsame.fewer with
      replies := congrArg (fun l : List Reply => l ++ [{ status := .reserved, value := .unit }]) hsame.replies }
  operation n i c rest s s' t t' hsame h h' := by
    have htaken := hsame.take c rest
    by_cases hi : i = .update
    · subst hi
      exact htaken.exec_update h h'
    · exact htaken.fewer.exec_of_ne_update rfl hi h h'

/-- Settles O59: each UPDATE uses up twelve answers, and every reply is a function of what the two blocks share. -/
theorem hostSeesOnlyCommandsLengthsAndAnswers : Obligations.HostSeesOnlyCommandsLengthsAndAnswers := by
  intro k s s' t t' hidle hidle' hpending hview hread hreported hcold hlengths hlen htake h h'
  have hsame : SameForHost s.pending.length s s' := ⟨hview, hread, hreported, hcold, hlengths, hlen, htake⟩
  exact (sameForHost_lockstep.run hidle hidle' hpending hsame h h').replies

end Sys2Proof.Machine
end
